-- ==== Sys2Proof/Word.lean ====
section
/-! DEFINITION. The widths of the Evoting GF core (10_state.md R30, 20_memory.md R73, R76). -/

namespace Sys2Proof

/-- One byte of BUF, and one element of GF(2^8) (40_gf256.md R130). -/
abbrev Byte := BitVec 8

/-- A halfword of BUF (20_memory.md R76). -/
abbrev Half := BitVec 16

/-- A general register, a control register, a command word (10_state.md R30, 30_encoding.md R100). -/
abbrev Word := BitVec 32

/-- A 10-bit word: an element of GF(2^10) and one word index of a mnemonic (00_scope.md R14). -/
abbrev Word10 := BitVec 10

/-- The index of a general register, G0 to G15 (10_state.md R30). -/
abbrev Reg := Fin 16

end Sys2Proof
end

