-- ==== Sys2Proof/Machine/Bytes.lean ====
section
/-! DEFINITION. Byte strings and byte order: everything is big-endian (20_memory.md R71). -/

namespace Sys2Proof.Machine

/-- Two bytes as a halfword, the first most significant (20_memory.md R71). -/
def halfOfBytes (hi lo : Byte) : Half := hi ++ lo

/-- Four bytes as a 32-bit word, the first most significant (20_memory.md R71). -/
def wordOfBytes (b0 b1 b2 b3 : Byte) : Word := b0 ++ b1 ++ b2 ++ b3

/-- be16: the bytes v[15:8], v[7:0] (44_rs1024.md R237). -/
def bytesOfHalf (v : Half) : List Byte := [v.extractLsb' 8 8, v.extractLsb' 0 8]

/-- The bytes v[31:24], v[23:16], v[15:8], v[7:0] (20_memory.md R78). -/
def bytesOfWord (v : Word) : List Byte :=
  [v.extractLsb' 24 8, v.extractLsb' 16 8, v.extractLsb' 8 8, v.extractLsb' 0 8]

/-- A byte string as a big-endian integer (45_codec.md R252). -/
def natOfBytes (bs : List Byte) : Nat := bs.foldl (fun acc b => acc * 256 + b.toNat) 0

/-- The low 8n bits of v as n big-endian bytes (45_codec.md R258). -/
def bytesOfNat (n v : Nat) : List Byte :=
  (List.range n).map fun t => BitVec.ofNat 8 (v >>> (8 * (n - 1 - t)))

/-- A 10-bit word as two bytes, bits 15:10 zero (20_memory.md R73). -/
def bytesOfWord10 (w : Word10) : List Byte := bytesOfHalf (w.setWidth 16)

/-- A sequence of 10-bit words as big-endian halfwords (20_memory.md R73). -/
def bytesOfWords (ws : List Word10) : List Byte := ws.flatMap bytesOfWord10

/-- Bytewise XOR of equal-length strings (00_scope.md R10). -/
def xorBytes (a b : List Byte) : List Byte := List.zipWith (· ^^^ ·) a b

/-- Some value stands twice in the list (42_shamir.md R185, R190, R195). -/
def hasDuplicate : List Byte → Bool
  | [] => false
  | x :: rest => rest.contains x || hasDuplicate rest

end Sys2Proof.Machine
end

