-- ==== Sys2Proof/Config.lean ====
section
/-! DEFINITION. What an implementation fixes, and the free values (00_scope.md R9,
93_implementation_defined.md part 1). The free values are opaque: nothing is provable of them. -/

namespace Sys2Proof.Config

/-- The ID register's constant (10_state.md R43). -/
def idValue : Word := 0x47460007

/-- BUF_SIZE is a multiple of 4 with 64 <= BUF_SIZE <= 2^20 (00_scope.md R9, 10_state.md R38). -/
def bufSizeLegal (n : Nat) : Bool := n % 4 == 0 && 64 ≤ n && n ≤ 2 ^ 20

/-- BUF_SIZE's reference value (00_scope.md R9). -/
def bufSizeReference : Nat := 4096

/-- What an unlisted byte of BUF reads as: the reset contents of BUF (10_state.md R38,
70_reset_and_hazards.md R341). -/
def unlistedByte : Byte := 0

/-- FREE VALUE. The byte e_t of the entropy stream (60_exceptions.md R325: "each byte is a draw: a
free input under no law"; open parameter ENTROPY_SOURCE). Log 4. -/
opaque entropyByte (t : Nat) : Byte

/-- FREE VALUE. What the n-th open read returns: a host read of G or BUF while BUSY = 1
(70_reset_and_hazards.md R350: "an unspecified 32-bit value (a draw)"). Log 5. -/
opaque busyRead (n : Nat) : Word

/-- FREE VALUE. How many entropy bytes a command abandoned by a reset had drawn, before it is cut to
what that command draws (70_reset_and_hazards.md R342). Log 6. -/
opaque abandonedDraws (n : Nat) : Nat

end Sys2Proof.Config
end

