-- ==== Sys2Proof/Machine/State.lean ====
section
/-! DEFINITION. The architectural state of the core (10_state.md R50), the events that reach it
(60_exceptions.md R316, 70_reset_and_hazards.md R355), the reasons a step can stop, and the state
after reset (70_reset_and_hazards.md R340). All of it is plain data. -/

namespace Sys2Proof.Machine

/-- BUF as (address, byte) pairs, addresses strictly rising, no listed byte equal to what an unlisted
address reads as (10_state.md R38). -/
abbrev Memory := List Host.Cell

/-- G0 to G15 (10_state.md R30). -/
abbrev Regs := Vector Word 16

/-- A command's inputs: the general registers and BUF as they stood at its acceptance
(10_state.md R49). -/
structure Snapshot where
  /-- G0 to G15 at acceptance. -/
  g : Regs
  /-- BUF at acceptance. -/
  buf : Memory
  deriving DecidableEq, Repr

/-- The pending command: the accepted word and its snapshot (10_state.md R48, R50). -/
structure Pending where
  /-- The word written to CMD. -/
  word : Word
  /-- The inputs at acceptance. -/
  snapshot : Snapshot
  deriving DecidableEq, Repr

/-- What reaches the core, one at a time (20_memory.md R82, 60_exceptions.md R316). Offsets count from
CORE_BASE (20_memory.md R70); `bytes` is the access width. -/
inductive Event where
  /-- A host bus read. -/
  | hostRead (offset bytes : Nat)
  /-- A host bus write. -/
  | hostWrite (offset bytes : Nat) (value : Word)
  /-- The engine's execution and completion step happens now (60_exceptions.md R305, R316). -/
  | engineMoves
  /-- The platform's hard reset input (70_reset_and_hazards.md R340). -/
  | hardReset
  deriving DecidableEq, Repr

/-- The error codes a command can complete with (60_exceptions.md R310). -/
inductive ErrCode where
  | invalidThreshold
  | invalidGroupConfig
  | invalidShareData
  | invalidIdentifier
  | invalidMnemonicLength
  | checksumFailed
  | digestVerificationFailed
  | insufficientShares
  /-- Reserved for the orchestrator's check and never raised (60_exceptions.md R310). -/
  | incompatibleShares
  | illegalCommand
  | zeroElement
  | bufRange
  | invalidLength
  | invalidParameter
  deriving DecidableEq, Repr

/-- Why the machine stops with a fault. -/
inductive Fault where
  /-- Raised by a host access at an aligned offset beyond the window, 0x1000 + BUF_SIZE or more:
  "not decoded by the core; they belong to the platform" (20_memory.md R77). Safe: the core takes no
  part in such an access, and the model says nothing about it. -/
  | offsetOutsideWindow
  deriving DecidableEq, Repr

/-- Why the model gives no meaning. -/
inductive Refusal where
  /-- Raised by an arm of exec whose command has no meaning yet; no arm is left so. Safe. -/
  | notModelled (mnemonic : String)
  /-- Raised by a host access that is not 32 bits wide: "outside this spec: a model refuses it"
  (20_memory.md R74). Safe. -/
  | hostAccessWidth
  /-- Raised by a 32-bit host access whose offset is not a multiple of 4 (20_memory.md R74). Safe. -/
  | hostAccessUnaligned
  deriving DecidableEq, Repr

/-- The state of the core: the tuple of 10_state.md R50 and the scratch of R48, then the model's own
fields, which are marked so. -/
structure State where
  /-- G0 to G15 (10_state.md R30). -/
  g : Regs
  /-- BUF (10_state.md R38). -/
  buf : Memory
  /-- STATUS.BUSY (10_state.md R39). -/
  busy : Bool
  /-- STATUS.DONE (10_state.md R39). -/
  done : Bool
  /-- STATUS.ERR (10_state.md R39). -/
  err : Bool
  /-- STATUS.OVR (10_state.md R39). -/
  ovr : Bool
  /-- STATUS.ERRCODE (10_state.md R39). -/
  errCode : BitVec 8
  /-- ERRINFO (10_state.md R41). -/
  errInfo : Word
  /-- CTRL.IE (10_state.md R40). -/
  ie : Bool
  /-- The pending command, absent when none is accepted (10_state.md R48). -/
  pending : Option Pending
  /-- Internal scratch (10_state.md R48); the empty list is scratch that is all zero. -/
  scratch : List Byte
  /-- The entropy stream's position (10_state.md R48, 60_exceptions.md R325). -/
  entropyPos : Nat
  /-- BUF_SIZE (10_state.md R42): a parameter, which no step changes. -/
  bufSize : Nat
  /-- MODEL: bytes injected at the entropy port, delivered before the free stream (log 4). -/
  entropyIn : List Byte
  /-- MODEL: the events still to come, in the order the core takes them (log 2). -/
  inputs : List Event
  /-- MODEL: what the last host read returned (log 7). -/
  readData : Option Word
  /-- MODEL: how many free values have been handed out (log 5). -/
  freeCount : Nat
  deriving DecidableEq, Repr

/-- Right after reset (70_reset_and_hazards.md R340, R341, R343): every register, flag and byte of BUF
0, no pending command, scratch zero. BUF_SIZE is the reference value (log 1); nothing is to come on
the bus (log 2) and nothing is injected at the entropy port (log 4). -/
def State.reset : State where
  g := Vector.replicate 16 0
  buf := []
  busy := false
  done := false
  err := false
  ovr := false
  errCode := 0
  errInfo := 0
  ie := false
  pending := none
  scratch := []
  entropyPos := 0
  bufSize := Config.bufSizeReference
  entropyIn := []
  inputs := []
  readData := none
  freeCount := 0

end Sys2Proof.Machine
end

