-- ==== Sys2Proof/Machine/Flags.lean ====
section
/-! DEFINITION. The STATUS and CTRL flags: how software reads them, what each event writes to them,
the error codes, and the interrupt line (10_state.md R39, R40, R45, R47; 60_exceptions.md R300, R305,
R310, R315). The core has no condition codes (10_state.md R47). -/

namespace Sys2Proof.Machine

/-- The number of an error code (60_exceptions.md R310). -/
def ErrCode.code (c : ErrCode) : BitVec 8 :=
  match c with
  | .invalidThreshold => 0x01
  | .invalidGroupConfig => 0x02
  | .invalidShareData => 0x03
  | .invalidIdentifier => 0x04
  | .invalidMnemonicLength => 0x05
  | .checksumFailed => 0x06
  | .digestVerificationFailed => 0x07
  | .insufficientShares => 0x08
  | .incompatibleShares => 0x09
  | .illegalCommand => 0x10
  | .zeroElement => 0x11
  | .bufRange => 0x12
  | .invalidLength => 0x13
  | .invalidParameter => 0x14

/-- One bit as a 32-bit word at bit position `pos`. -/
def flagBit (b : Bool) (pos : Nat) : Word := (BitVec.ofBool b).setWidth 32 <<< pos

/-- STATUS as a host reads it: ERRCODE in bits 15:8, OVR, ERR, DONE, BUSY in bits 3:0, reserved bits 0
(10_state.md R39). -/
def State.statusWord (s : State) : Word :=
  (s.errCode.setWidth 32 <<< 8) ||| flagBit s.ovr 3 ||| flagBit s.err 2 ||| flagBit s.done 1
    ||| flagBit s.busy 0

/-- CTRL as a host reads it: IE in bit 0; SRST and the reserved bits read 0 (10_state.md R40). -/
def State.ctrlWord (s : State) : Word := flagBit s.ie 0

/-- IRQ = CTRL.IE AND STATUS.DONE, computed at all times (10_state.md R45, 60_exceptions.md R315). -/
def State.irq (s : State) : Bool := s.ie && s.done

/-- The flags acceptance writes: BUSY = 1, DONE, ERR, ERRCODE and ERRINFO = 0; OVR and CTRL are
unchanged (60_exceptions.md R300). -/
def State.flagsAccepted (s : State) : State :=
  { s with busy := true, done := false, err := false, errCode := 0, errInfo := 0 }

/-- The flags a completion without error writes (60_exceptions.md R305). -/
def State.flagsOk (s : State) : State :=
  { s with busy := false, done := true, err := false, errCode := 0, errInfo := 0 }

/-- The flags a completion with error writes (60_exceptions.md R305). -/
def State.flagsErr (s : State) (c : ErrCode) (info : Word) : State :=
  { s with busy := false, done := true, err := true, errCode := c.code, errInfo := info }

/-- A host write of 1 to STATUS.DONE (10_state.md R39). -/
def State.clearDone (s : State) : State := { s with done := false }

/-- A host write of 1 to STATUS.ERR clears ERR, ERRCODE and ERRINFO: what ends an error record, the
core's return from an error (10_state.md R39, R41; 60_exceptions.md R319). -/
def State.clearErr (s : State) : State := { s with err := false, errCode := 0, errInfo := 0 }

/-- A host write of 1 to STATUS.OVR (10_state.md R39). -/
def State.clearOvr (s : State) : State := { s with ovr := false }

/-- A host write of v to STATUS: bits 1, 2 and 3 are write-1-to-clear, every other bit is ignored
(10_state.md R39). -/
def State.writeStatus (s : State) (v : Word) : State :=
  let s1 := if v.getLsbD 1 then s.clearDone else s
  let s2 := if v.getLsbD 2 then s1.clearErr else s1
  if v.getLsbD 3 then s2.clearOvr else s2

/-- A dropped host write sets the sticky OVR (70_reset_and_hazards.md R350). -/
def State.setOvr (s : State) : State := { s with ovr := true }

end Sys2Proof.Machine
end

