-- ==== Sys2Proof/Machine/Ops.lean ====
section
/-! DEFINITION. The named operations over BUF, the general registers, the entropy port and the command
lifecycle: acceptance, completion with its outputs or with an error record (the core's one exception
mechanism, 60_exceptions.md R305, R318), and reset. -/

namespace Sys2Proof.Machine

/-! ### BUF -/

/-- Every listed address is `lo` or more, the addresses strictly rise, and no listed byte is what an
unlisted address reads as. -/
def Memory.wfFrom (lo : Nat) : Memory → Bool
  | [] => true
  | (k, b) :: rest => lo ≤ k && b != Config.unlistedByte && Memory.wfFrom (k + 1) rest

/-- The canonical form: equal contents are equal data. -/
def Memory.wf (m : Memory) : Bool := Memory.wfFrom 0 m

/-- Every listed address is below `size` (10_state.md R38). -/
def Memory.below (size : Nat) (m : Memory) : Bool := m.all fun c => c.1 < size

/-- The byte at address a (10_state.md R38). -/
def Memory.read (m : Memory) (a : Nat) : Byte :=
  match m with
  | [] => Config.unlistedByte
  | (k, b) :: rest => if k = a then b else Memory.read rest a

/-- Write byte v at address a, keeping the canonical form. -/
def Memory.write (m : Memory) (a : Nat) (v : Byte) : Memory :=
  match m with
  | [] => if v = Config.unlistedByte then [] else [(a, v)]
  | (k, b) :: rest =>
    if a < k then
      if v = Config.unlistedByte then (k, b) :: rest else (a, v) :: (k, b) :: rest
    else if a = k then
      if v = Config.unlistedByte then rest else (a, v) :: rest
    else (k, b) :: Memory.write rest a v

/-- MemRead(a, n): the n bytes from address a, the one at a first (00_scope.md R11). -/
def Memory.readBytes (m : Memory) (a n : Nat) : List Byte :=
  (List.range n).map fun t => m.read (a + t)

/-- MemWrite(a, len bs, bs): the string bs from address a on (00_scope.md R11). -/
def Memory.writeBytes (m : Memory) (a : Nat) (bs : List Byte) : Memory :=
  match bs with
  | [] => m
  | b :: rest => Memory.writeBytes (m.write a b) (a + 1) rest

/-- Half(a): the big-endian halfword at a (00_scope.md R11, 20_memory.md R71). -/
def Memory.readHalf (m : Memory) (a : Nat) : Half := halfOfBytes (m.read a) (m.read (a + 1))

/-- The big-endian 32-bit word at a, as the BUF window shows it (20_memory.md R78). -/
def Memory.readWord (m : Memory) (a : Nat) : Word :=
  wordOfBytes (m.read a) (m.read (a + 1)) (m.read (a + 2)) (m.read (a + 3))

/-! ### General registers -/

/-- G[r] (00_scope.md R11). -/
def Regs.read (g : Regs) (r : Reg) : Word := g[r]

/-- G[r] <- v (00_scope.md R11). -/
def Regs.write (g : Regs) (r : Reg) (v : Word) : Regs := g.set r v

/-- The register writes of one command, in order (60_exceptions.md R305). -/
def Regs.writeAll (g : Regs) (ws : List (Reg × Word)) : Regs :=
  ws.foldl (fun acc w => acc.write w.1 w.2) g

/-- G[r] as it stood at acceptance (10_state.md R49). -/
def Snapshot.reg (v : Snapshot) (r : Reg) : Word := v.g.read r

/-- G[r] of a bulk command as an unbounded number (00_scope.md R10). -/
def Snapshot.regNat (v : Snapshot) (r : Reg) : Nat := (v.reg r).toNat

/-! ### Entropy port -/

/-- The t-th byte the port delivers from now on: an injected byte while there is one, else the free
byte of its position in the stream (60_exceptions.md R325). -/
def State.entropyAhead (s : State) (t : Nat) : Byte :=
  match s.entropyIn[t]? with
  | some b => b
  | none => Config.entropyByte (s.entropyPos + t)

/-- Consume the next n bytes of the stream (60_exceptions.md R325). -/
def State.drawEntropy (s : State) (n : Nat) : State :=
  { s with entropyPos := s.entropyPos + n, entropyIn := s.entropyIn.drop n }

/-! ### Outcome of a command -/

/-- What a command without error writes: registers, the byte string `bytes` from BUF address `addr`
on, and how many entropy bytes it drew (60_exceptions.md R301). No command has two BUF output regions
(20_memory.md R80). -/
structure Effects where
  regs : List (Reg × Word) := []
  addr : Nat := 0
  bytes : List Byte := []
  draws : Nat := 0
  deriving DecidableEq, Repr

/-- A command's outcome: Ok(writes) or Err(code, info) from its first raise (60_exceptions.md R301,
R302). -/
inductive Result where
  | ok (e : Effects)
  | err (c : ErrCode) (info : Word)
  deriving DecidableEq, Repr

/-- A raise whose ERRINFO is a register index, a subcode or a count (60_exceptions.md R311). -/
def raise (c : ErrCode) (info : Nat) : Result := .err c (BitVec.ofNat 32 info)

/-- Ok with one register written. -/
def okReg (rd : Reg) (v : Word) : Result := .ok { regs := [(rd, v)] }

/-- Ok with one BUF region written. -/
def okBytes (addr : Nat) (bytes : List Byte) : Result := .ok { addr := addr, bytes := bytes }

/-- The entropy bytes a command with this outcome consumes (60_exceptions.md R306). -/
def Result.draws (r : Result) : Nat :=
  match r with
  | .ok e => e.draws
  | .err _ _ => 0

/-! ### Lifecycle -/

/-- The inputs of the command in execution: the snapshot at acceptance; with no pending command, the
registers and BUF as they stand (10_state.md R49; log 11). -/
def State.view (s : State) : Snapshot :=
  match s.pending with
  | some p => p.snapshot
  | none => { g := s.g, buf := s.buf }

/-- Acceptance of word w: the snapshot is taken and the flags change, in one atomic step
(60_exceptions.md R300). -/
def State.accept (s : State) (w : Word) : State :=
  { s.flagsAccepted with pending := some { word := w, snapshot := { g := s.g, buf := s.buf } } }

/-- What every completion does besides flags and outputs: scratch zeroed, the pending command gone
(60_exceptions.md R305, 10_state.md R48). -/
def State.retire (s : State) : State := { s with scratch := [], pending := none }

/-- Apply a command's writes: registers, BUF bytes, entropy position (60_exceptions.md R305). -/
def State.applyEffects (s : State) (e : Effects) : State :=
  { s.drawEntropy e.draws with
    g := s.g.writeAll e.regs, buf := s.buf.writeBytes e.addr e.bytes }

/-- TAKING AN ERROR, the core's exception: the record goes to STATUS and ERRINFO and nothing else of
the architectural state changes (60_exceptions.md R305, R306, R318). -/
def State.takeError (s : State) (c : ErrCode) (info : Word) : State := (s.flagsErr c info).retire

/-- Completion, in one atomic step (60_exceptions.md R305). -/
def State.complete (s : State) (r : Result) : State :=
  match r with
  | .ok e => (s.applyEffects e).flagsOk.retire
  | .err c info => s.takeError c info

/-- Execution of one decoded command: its rule, evaluated on BUF_SIZE and the snapshot, then its
completion (60_exceptions.md R301, R305). -/
def runRule (rule : Nat → Snapshot → Result) (s : State) : Host.Outcome State Fault Refusal :=
  .next (s.complete (rule s.bufSize s.view))

/-- Reset of the core: every piece of state to its reset value, the command in execution abandoned
(70_reset_and_hazards.md R340, R342). BUF_SIZE is a constant, and the entropy position is not the
core's (R340); the model's own fields are not state of the core. -/
def State.resetCore (s : State) : State :=
  { State.reset with
    entropyPos := s.entropyPos, bufSize := s.bufSize, entropyIn := s.entropyIn,
    inputs := s.inputs, readData := s.readData, freeCount := s.freeCount }

end Sys2Proof.Machine
end

