-- ==== Sys2Proof/Machine/Operands.lean ====
section
/-! DEFINITION. The operand forms of the commands: immediates (30_encoding.md R107), narrow register
operands (10_state.md R32), the effective address (46_move_load_store.md R281), BUF regions and their
range checks (20_memory.md R75), word sequences (20_memory.md R73) and point tables
(42_shamir.md R181). -/

namespace Sys2Proof.Machine

/-- imm16 zero-extended to 32 bits (30_encoding.md R107). -/
def immLow (imm : Nat) : Word := (BitVec.ofNat 16 imm).setWidth 32

/-- imm16 in bits 31:16, the low half of `old` kept (46_move_load_store.md R285). -/
def immHigh (imm : Nat) (old : Word) : Word := BitVec.ofNat 16 imm ++ old.extractLsb' 0 16

/-- The low 8 bits of a register, a GF(2^8) operand or a byte to store (10_state.md R32). -/
def low8 (w : Word) : Byte := w.setWidth 8

/-- The low 10 bits of a register, a GF(2^10) operand (10_state.md R32). -/
def low10 (w : Word) : Word10 := w.setWidth 10

/-- The low 16 bits of a register, a halfword to store (46_move_load_store.md R282). -/
def low16 (w : Word) : Half := w.setWidth 16

/-- The effective address G[rs1] + zext(imm12), an exact sum that does not wrap
(46_move_load_store.md R281). -/
def effAddr (v : Snapshot) (rs1 : Reg) (off : Nat) : Nat :=
  v.regNat rs1 + (BitVec.ofNat 12 off).toNat

/-- The region (a, m) is in range: m = 0 or a + m <= BUF_SIZE, computed exactly (20_memory.md R75). -/
def inRange (size : Nat) (region : Nat × Nat) : Bool :=
  region.2 == 0 || region.1 + region.2 ≤ size

/-- The start of the first region, in the listed order, that is out of range (20_memory.md R75). -/
def firstOutOfRange (size : Nat) (regions : List (Nat × Nat)) : Option Nat :=
  match regions with
  | [] => none
  | r :: rest => if inRange size r then firstOutOfRange size rest else some r.1

/-- Check the regions before anything else: the first one out of range raises BUF_RANGE with its start
mod 2^32 (20_memory.md R75, 60_exceptions.md R311). -/
def withRegions (size : Nat) (regions : List (Nat × Nat)) (body : Result) : Result :=
  match firstOutOfRange size regions with
  | some a => raise .bufRange a
  | none => body

/-- The c halfwords from address a on (20_memory.md R73). -/
def readHalves (m : Memory) (a c : Nat) : List Half :=
  (List.range c).map fun j => m.readHalf (a + 2 * j)

/-- Some halfword has bits 15:10 not 0 (20_memory.md R73). -/
def anyAbove1023 (hs : List Half) : Bool := hs.any fun h => 1023 < h.toNat

/-- Checked halfwords as 10-bit words (20_memory.md R73). -/
def words10 (hs : List Half) : List Word10 := hs.map fun h => h.setWidth 10

/-- A Shamir point (x, y) (42_shamir.md R181). -/
abbrev Point := Byte × List Byte

/-- The k records of the point table at P, each 1 + n bytes, x then y (42_shamir.md R181). -/
def readRecords (m : Memory) (P k n : Nat) : List Point :=
  (List.range k).map fun j => (m.read (P + j * (1 + n)), m.readBytes (P + j * (1 + n) + 1) n)

/-- A point table as bytes: record after record, x then y (42_shamir.md R181). -/
def bytesOfRecords (recs : List Point) : List Byte := recs.flatMap fun r => r.1 :: r.2

/-- min(have, 0xFFFF) * 2^16 + need (60_exceptions.md R311, INSUFFICIENT_SHARES). -/
def sharesInfo (have_ need : Nat) : Nat := min have_ 0xFFFF * 2 ^ 16 + need

end Sys2Proof.Machine
end

