-- ==== Sys2Proof/Machine/Rs1024.lean ====
section
/-! DEFINITION. RS.POLYMOD, RS.CREATE and RS.VERIFY (44_rs1024.md). -/

namespace Sys2Proof.Machine

/-- The generator constants RS_GEN[0..9] (44_rs1024.md R231). -/
def rsGen : List (BitVec 30) := [
  0x00E0E040, 0x01C1C080, 0x03838100, 0x07070200, 0x0E0E0009,
  0x1C0C2412, 0x38086C24, 0x3090FC48, 0x21B1F890, 0x03F3F120]

/-- XOR in the constants from gate bit i on: RS_GEN[i] where b[i] = 1 (44_rs1024.md R230). -/
def rsGate (b : Word10) (i : Nat) (gens : List (BitVec 30)) (chk : BitVec 30) : BitVec 30 :=
  match gens with
  | [] => chk
  | gen :: rest => rsGate b (i + 1) rest (if b.getLsbD i then chk ^^^ gen else chk)

/-- polymod_step (44_rs1024.md R230). -/
def polymodStep (chk : BitVec 30) (v : Word10) : BitVec 30 :=
  let b : Word10 := chk.extractLsb' 20 10
  rsGate b 0 rsGen (((chk &&& 0xFFFFF) <<< 10) ^^^ v.setWidth 30)

/-- polymod(values, init): the fold of polymod_step (44_rs1024.md R230). -/
def polymod (values : List Word10) (init : BitVec 30) : BitVec 30 := values.foldl polymodStep init

/-- cust(ext), the code points of "shamir" or "shamir_extendable" (44_rs1024.md R232). -/
def cust (ext : Bool) : List Word10 :=
  if ext then
    [115, 104, 97, 109, 105, 114, 95, 101, 120, 116, 101, 110, 100, 97, 98, 108, 101]
  else [115, 104, 97, 109, 105, 114]

/-- The 30-bit checksum of a word sequence (44_rs1024.md R237). -/
def rsChecksum (ext : Bool) (ws : List Word10) : BitVec 30 :=
  polymod (cust ext ++ ws ++ [0, 0, 0]) 1 ^^^ 1

/-- The checksum as three words k[29:20], k[19:10], k[9:0] (44_rs1024.md R237). -/
def checksumWords (k : BitVec 30) : List Word10 :=
  [k.extractLsb' 20 10, k.extractLsb' 10 10, k.extractLsb' 0 10]

/-- The sequence's last three words are its checksum: the residue is 1 (44_rs1024.md R238). -/
def rsValid (ext : Bool) (ws : List Word10) : Bool := polymod (cust ext ++ ws) 1 == 1

/-- RS.POLYMOD's rule (44_rs1024.md R236). -/
def polymodRule (rd : Reg) (size : Nat) (v : Snapshot) : Result :=
  let A := v.regNat 1
  let c := v.regNat 2
  withRegions size [(A, 2 * c)] <|
    let hs := readHalves v.buf A c
    if anyAbove1023 hs then raise .invalidParameter 1
    else if v.regNat 3 ≥ 2 ^ 30 then raise .invalidParameter 3
    else okReg rd ((polymod (words10 hs) ((v.reg 3).setWidth 30)).setWidth 32)

/-- RS.POLYMOD (44_rs1024.md R236). -/
def execRsPolymod (rd : Reg) (s : State) : Host.Outcome State Fault Refusal :=
  runRule (polymodRule rd) s

/-- RS.CREATE's rule (44_rs1024.md R237). -/
def createRule (rd : Reg) (ext : Bool) (size : Nat) (v : Snapshot) : Result :=
  let A := v.regNat 1
  let c := v.regNat 2
  let O := v.regNat 3
  withRegions size [(A, 2 * c), (O, 6)] <|
    let hs := readHalves v.buf A c
    if anyAbove1023 hs then raise .invalidParameter 1
    else
      let k := rsChecksum ext (words10 hs)
      .ok { regs := [(rd, k.setWidth 32)], addr := O, bytes := bytesOfWords (checksumWords k) }

/-- RS.CREATE (44_rs1024.md R237). -/
def execRsCreate (rd : Reg) (ext : Bool) (s : State) : Host.Outcome State Fault Refusal :=
  runRule (createRule rd ext) s

/-- RS.VERIFY's rule: a mismatch is a result, not an error (44_rs1024.md R238). -/
def verifyRule (rd : Reg) (ext : Bool) (size : Nat) (v : Snapshot) : Result :=
  let A := v.regNat 1
  let c := v.regNat 2
  withRegions size [(A, 2 * c)] <|
    let hs := readHalves v.buf A c
    if anyAbove1023 hs then raise .invalidParameter 1
    else okReg rd (if rsValid ext (words10 hs) then 1 else 0)

/-- RS.VERIFY (44_rs1024.md R238). -/
def execRsVerify (rd : Reg) (ext : Bool) (s : State) : Host.Outcome State Fault Refusal :=
  runRule (verifyRule rd ext) s

end Sys2Proof.Machine
end

