-- ==== Sys2Proof/Machine/Codec.lean ====
section
/-! DEFINITION. CODEC.ENC and CODEC.DEC (45_codec.md). -/

namespace Sys2Proof.Machine

/-- A share: its metadata and value (45_codec.md R250). Thresholds and the group count are 1..16. -/
structure Share where
  id : BitVec 15
  ext : Bool
  e : BitVec 4
  gi : BitVec 4
  gt : Nat
  gc : Nat
  mi : BitVec 4
  mt : Nat
  value : List Byte
  deriving DecidableEq, Repr

/-- A count 1..16 as its 4-bit field, count - 1 (45_codec.md R250). -/
def countField (n : Nat) : BitVec 4 := BitVec.ofNat 4 (n - 1)

/-- ie = id << 5 | ext << 4 | e (45_codec.md R251). -/
def headerIe (sh : Share) : BitVec 20 := sh.id ++ BitVec.ofBool sh.ext ++ sh.e

/-- gm = gi << 16 | (gt-1) << 12 | (gc-1) << 8 | mi << 4 | (mt-1) (45_codec.md R251). -/
def headerGm (sh : Share) : BitVec 20 :=
  sh.gi ++ countField sh.gt ++ countField sh.gc ++ sh.mi ++ countField sh.mt

/-- The four header words w0 to w3 (45_codec.md R251). -/
def headerWords (sh : Share) : List Word10 :=
  [(headerIe sh).extractLsb' 10 10, (headerIe sh).extractLsb' 0 10,
   (headerGm sh).extractLsb' 10 10, (headerGm sh).extractLsb' 0 10]

/-- W = ceil(8n / 10), the payload word count of an n-byte value (45_codec.md R252). -/
def payloadCount (n : Nat) : Nat := (8 * n + 9) / 10

/-- The payload words p_0 .. p_{W-1} (45_codec.md R252). -/
def payloadWords (value : List Byte) : List Word10 :=
  let W := payloadCount value.length
  let v := natOfBytes value
  (List.range W).map fun j => BitVec.ofNat 10 (v >>> (10 * (W - 1 - j)))

/-- The words of a share: header, payload, checksum (45_codec.md R253). -/
def shareWords (sh : Share) : List Word10 :=
  let body := headerWords sh ++ payloadWords sh.value
  body ++ checksumWords (rsChecksum sh.ext body)

/-- CODEC.ENC's rule (45_codec.md R255). -/
def encRule (rd : Reg) (size : Nat) (v : Snapshot) : Result :=
  let n := v.regNat 10
  let W := payloadCount n
  let gi := v.regNat 4
  let gt := v.regNat 5
  let gc := v.regNat 6
  let mt := v.regNat 8
  withRegions size [(v.regNat 9, n), (v.regNat 11, 2 * (7 + W))] <|
    if v.regNat 1 > 0x7FFF then raise .invalidIdentifier 1
    else if v.regNat 2 > 1 then raise .invalidParameter 2
    else if v.regNat 3 > 15 then raise .invalidParameter 3
    else if gi > 15 then raise .invalidParameter 4
    else if gt < 1 ∨ gt > 16 then raise .invalidThreshold 5
    else if gc < 1 ∨ gc > 16 then raise .invalidGroupConfig 6
    else if v.regNat 7 > 15 then raise .invalidParameter 7
    else if mt < 1 ∨ mt > 16 then raise .invalidThreshold 8
    else if gt > gc then raise .invalidGroupConfig 5
    else if gi ≥ gc then raise .invalidGroupConfig 4
    else if n < 16 ∨ n % 2 = 1 then raise .invalidLength 10
    else
      let sh : Share := {
        id := (v.reg 1).setWidth 15, ext := v.regNat 2 == 1, e := (v.reg 3).setWidth 4
        gi := (v.reg 4).setWidth 4, gt := gt, gc := gc, mi := (v.reg 7).setWidth 4, mt := mt
        value := v.buf.readBytes (v.regNat 9) n }
      .ok {
        regs := [(rd, BitVec.ofNat 32 (7 + W))]
        addr := v.regNat 11
        bytes := bytesOfWords (shareWords sh) }

/-- CODEC.ENC (45_codec.md R255). -/
def execCodecEnc (rd : Reg) (s : State) : Host.Outcome State Fault Refusal :=
  runRule (encRule rd) s

/-- pad = (10*W) mod 16 for a count of c words, W = c - 7 (45_codec.md R256). -/
def decodedPad (c : Nat) : Nat := (10 * (c - 7)) % 16

/-- vlen = (10*W - pad) / 8 (45_codec.md R256). -/
def decodedLength (c : Nat) : Nat := (10 * (c - 7) - decodedPad c) / 8

/-- The integer with the given 10-bit digits, most significant first (45_codec.md R258). -/
def natOfWords (ws : List Word10) : Nat := ws.foldl (fun acc w => acc * 1024 + w.toNat) 0

/-- The share of a checked sequence of c >= 20 words with a legal pad, or the first failing check:
checksum, padding, gt > gc, gi >= gc, in this order (45_codec.md R257, R258). -/
def shareOfWords (ws : List Word10) : Except (ErrCode × Nat) Share :=
  let c := ws.length
  let w := fun j => ws.getD j 0
  let ext := (w 1).getLsbD 4
  let ie : BitVec 20 := w 0 ++ w 1
  let gm : BitVec 20 := w 2 ++ w 3
  let v := natOfWords ((ws.drop 4).take (c - 7))
  let gi : BitVec 4 := gm.extractLsb' 16 4
  let gt := (gm.extractLsb' 12 4).toNat + 1
  let gc := (gm.extractLsb' 8 4).toNat + 1
  if rsValid ext ws = false then .error (.checksumFailed, 0)
  else if v >>> (10 * (c - 7) - decodedPad c) ≠ 0 then .error (.invalidShareData, 4)
  else if gt > gc then .error (.invalidShareData, 5)
  else if gi.toNat ≥ gc then .error (.invalidShareData, 6)
  else .ok {
    id := ie.extractLsb' 5 15, ext := ext, e := ie.extractLsb' 0 4, gi := gi, gt := gt, gc := gc
    mi := gm.extractLsb' 4 4, mt := (gm.extractLsb' 0 4).toNat + 1
    value := bytesOfNat (decodedLength c) v }

/-- What CODEC.DEC writes: the fields to G4 .. G12, the value from address O on (45_codec.md R258). -/
def decEffects (O c : Nat) (sh : Share) : Effects where
  regs := [
    (4, sh.id.setWidth 32), (5, (BitVec.ofBool sh.ext).setWidth 32), (6, sh.e.setWidth 32),
    (7, sh.gi.setWidth 32), (8, BitVec.ofNat 32 sh.gt), (9, BitVec.ofNat 32 sh.gc),
    (10, sh.mi.setWidth 32), (11, BitVec.ofNat 32 sh.mt), (12, BitVec.ofNat 32 (decodedLength c))]
  addr := O
  bytes := sh.value

/-- CODEC.DEC's rule (45_codec.md R258). -/
def decRule (size : Nat) (v : Snapshot) : Result :=
  let A := v.regNat 1
  let c := v.regNat 2
  let O := v.regNat 3
  withRegions size [(A, 2 * c)] <|
    if c < 20 then raise .invalidMnemonicLength c
    else if decodedPad c > 8 then raise .invalidMnemonicLength c
    else withRegions size [(O, decodedLength c)] <|
      let hs := readHalves v.buf A c
      if anyAbove1023 hs then raise .invalidShareData 3
      else
        match shareOfWords (words10 hs) with
        | .error e => raise e.1 e.2
        | .ok sh => .ok (decEffects O c sh)

/-- CODEC.DEC (45_codec.md R258). -/
def execCodecDec (s : State) : Host.Outcome State Fault Refusal := runRule decRule s

end Sys2Proof.Machine
end

