-- ==== Sys2Proof/Machine/Sha256.lean ====
section
/-! DEFINITION. SHA-256, HMAC-SHA256 and PBKDF2-HMAC-SHA256, which the spec names by their standards:
FIPS 180-4, RFC 2104 and RFC 8018 section 5.2 (00_scope.md R12; log 12: PRESUMED, the definitions are
the standards' and not the spec's). -/

namespace Sys2Proof.Machine

/-- The eight 32-bit words of a row, the most significant first. -/
def rowWords (row : BitVec 256) : List Word :=
  (List.range 8).map fun j => row.extractLsb' (32 * (7 - j)) 32

/-- The 64 round constants of SHA-256, eight to a row: the first 32 bits of the fractional parts of the
cube roots of the first 64 primes (FIPS 180-4, section 4.2.2); Laws/Sha256.lean checks them so. -/
def shaKRows : List (BitVec 256) := [
  0x428A2F9871374491B5C0FBCFE9B5DBA53956C25B59F111F1923F82A4AB1C5ED5,
  0xD807AA9812835B01243185BE550C7DC372BE5D7480DEB1FE9BDC06A7C19BF174,
  0xE49B69C1EFBE47860FC19DC6240CA1CC2DE92C6F4A7484AA5CB0A9DC76F988DA,
  0x983E5152A831C66DB00327C8BF597FC7C6E00BF3D5A7914706CA635114292967,
  0x27B70A852E1B21384D2C6DFC53380D13650A7354766A0ABB81C2C92E92722C85,
  0xA2BFE8A1A81A664BC24B8B70C76C51A3D192E819D6990624F40E3585106AA070,
  0x19A4C1161E376C082748774C34B0BCB5391C0CB34ED8AA4A5B9CCA4F682E6FF3,
  0x748F82EE78A5636F84C878148CC7020890BEFFFAA4506CEBBEF9A3F7C67178F2]

@[inherit_doc shaKRows]
def shaK : List Word := shaKRows.flatMap rowWords

/-- The eight working variables, and the eight words of a hash value. -/
structure ShaState where
  (a b c d e f g h : Word)
  deriving DecidableEq, Repr

/-- The words of a hash value in their order. -/
def ShaState.words (s : ShaState) : List Word := [s.a, s.b, s.c, s.d, s.e, s.f, s.g, s.h]

/-- A hash value from a row of eight words. -/
def ShaState.ofRow (row : BitVec 256) : ShaState :=
  let w := fun j => (rowWords row).getD j 0
  ⟨w 0, w 1, w 2, w 3, w 4, w 5, w 6, w 7⟩

/-- The initial hash value: the first 32 bits of the fractional parts of the square roots of the first
eight primes (FIPS 180-4, section 5.3.3); Laws/Sha256.lean checks it so. -/
def shaInit : ShaState :=
  .ofRow 0x6A09E667BB67AE853C6EF372A54FF53A510E527F9B05688C1F83D9AB5BE0CD19

/-- x rotated right by p and by q, and the word z, XORed: the shape of the four functions sigma of FIPS
180-4, section 4.1.2. -/
def shaMix (x : Word) (p q : Nat) (z : Word) : Word := z ^^^ x.rotateRight p ^^^ x.rotateRight q

/-- The functions of FIPS 180-4, section 4.1.2. -/
def shaSmallSigma0 (x : Word) : Word := shaMix x 7 18 (x >>> 3)
@[inherit_doc shaSmallSigma0]
def shaSmallSigma1 (x : Word) : Word := shaMix x 17 19 (x >>> 10)
@[inherit_doc shaSmallSigma0]
def shaBigSigma0 (x : Word) : Word := shaMix x 2 13 (x.rotateRight 22)
@[inherit_doc shaSmallSigma0]
def shaBigSigma1 (x : Word) : Word := shaMix x 6 11 (x.rotateRight 25)
@[inherit_doc shaSmallSigma0]
def shaCh (x y z : Word) : Word := (x &&& y) ^^^ (~~~x &&& z)
@[inherit_doc shaSmallSigma0]
def shaMaj (x y z : Word) : Word := (x &&& y) ^^^ (x &&& z) ^^^ (y &&& z)

/-- Extend a message schedule, held newest word first, by n words (FIPS 180-4, section 6.2.2, step 1). -/
def shaSchedule (n : Nat) (w : List Word) : List Word :=
  match n with
  | 0 => w
  | n + 1 =>
    shaSchedule n
      ((shaSmallSigma1 (w.getD 1 0) + w.getD 6 0 + shaSmallSigma0 (w.getD 14 0) + w.getD 15 0) :: w)

/-- One round, with its constant and schedule word (FIPS 180-4, section 6.2.2, step 3). -/
def shaRound (s : ShaState) (kw : Word × Word) : ShaState :=
  let t1 := s.h + shaBigSigma1 s.e + shaCh s.e s.f s.g + kw.1 + kw.2
  let t2 := shaBigSigma0 s.a + shaMaj s.a s.b s.c
  ⟨t1 + t2, s.a, s.b, s.c, s.d + t1, s.e, s.f, s.g⟩

/-- One block of 16 words into the hash value (FIPS 180-4, section 6.2.2). -/
def shaCompress (h : ShaState) (block : List Word) : ShaState :=
  let w := (shaSchedule 48 block.reverse).reverse
  let r := (shaK.zip w).foldl shaRound h
  ⟨h.a + r.a, h.b + r.b, h.c + r.c, h.d + r.d, h.e + r.e, h.f + r.f, h.g + r.g, h.h + r.h⟩

/-- The padded message: one bit 1, zeros, and the length in bits as 64 bits (FIPS 180-4, section
5.1.1). -/
def shaPad (msg : List Byte) : List Byte :=
  msg ++ [0x80#8] ++ List.replicate ((119 - msg.length % 64) % 64) 0#8
    ++ bytesOfNat 8 (8 * msg.length)

/-- A byte string as big-endian 32-bit words. -/
def shaWords : List Byte → List Word
  | b0 :: b1 :: b2 :: b3 :: rest => wordOfBytes b0 b1 b2 b3 :: shaWords rest
  | _ => []

/-- The n blocks of 16 words each, one after another (FIPS 180-4, section 6.2.2). -/
def shaBlocks (n : Nat) (ws : List Word) (h : ShaState) : ShaState :=
  match n with
  | 0 => h
  | n + 1 => shaBlocks n (ws.drop 16) (shaCompress h (ws.take 16))

/-- SHA-256: 32 bytes (FIPS 180-4, section 6.2). -/
def sha256 (msg : List Byte) : List Byte :=
  let ws := shaWords (shaPad msg)
  let h := shaBlocks (ws.length / 16) ws shaInit
  h.words.flatMap bytesOfWord

/-- A key as one 64-byte block: hashed first when longer, then padded with zeros (RFC 2104). -/
def hmacBlockKey (key : List Byte) : List Byte :=
  let k := if 64 < key.length then sha256 key else key
  k ++ List.replicate (64 - k.length) 0#8

/-- HMAC_SHA256(key, msg), 32 bytes (RFC 2104; 00_scope.md R12). -/
def hmacSha256 (key msg : List Byte) : List Byte :=
  let k := hmacBlockKey key
  sha256 (k.map (· ^^^ 0x5C#8) ++ sha256 (k.map (· ^^^ 0x36#8) ++ msg))

/-- n more iterations of PBKDF2's inner function: u is the last U, acc the XOR of all so far (RFC 8018,
section 5.2). -/
def pbkdf2Iterate (password : List Byte) (n : Nat) (u acc : List Byte) : List Byte :=
  match n with
  | 0 => acc
  | n + 1 =>
    let u' := hmacSha256 password u
    pbkdf2Iterate password n u' (xorBytes acc u')

/-- Block i of the derived key, i from 1: U_1 XOR ... XOR U_c (RFC 8018, section 5.2). -/
def pbkdf2Block (password salt : List Byte) (c i : Nat) : List Byte :=
  let u1 := hmacSha256 password (salt ++ bytesOfNat 4 i)
  pbkdf2Iterate password (c - 1) u1 u1

/-- PBKDF2_HMAC_SHA256(P, S, c, dkLen) (RFC 8018, section 5.2; 00_scope.md R12). -/
def pbkdf2 (password salt : List Byte) (c dkLen : Nat) : List Byte :=
  ((List.range ((dkLen + 31) / 32)).flatMap fun i => pbkdf2Block password salt c (i + 1)).take dkLen

end Sys2Proof.Machine
end

