-- ==== Sys2Proof/Machine/Feistel.lean ====
section
/-! DEFINITION. FST.ROUND, FST.ENC and FST.DEC (43_feistel.md). -/

namespace Sys2Proof.Machine

/-- The parameters every Feistel command shares (43_feistel.md R210). -/
structure FstParams where
  /-- Passphrase bytes. -/
  pass : List Byte
  /-- Iteration exponent e. -/
  e : Nat
  /-- Identifier id. -/
  id : BitVec 15
  /-- Extendable flag. -/
  ext : Bool
  deriving DecidableEq, Repr

/-- The ASCII bytes of "shamir" (43_feistel.md R211). -/
def shamirBytes : List Byte := [0x73, 0x68, 0x61, 0x6D, 0x69, 0x72]

/-- salt_prefix(id, ext) (43_feistel.md R211). -/
def saltPrefix (id : BitVec 15) (ext : Bool) : List Byte :=
  if ext then [] else shamirBytes ++ bytesOfHalf (id.setWidth 16)

/-- iters(e) = (10000 << e) / 4 (43_feistel.md R212). -/
def iters (e : Nat) : Nat := (10000 <<< e) / 4

/-- The round function F(i, r) (43_feistel.md R213). -/
def fstF (p : FstParams) (i : Byte) (r : List Byte) : List Byte :=
  pbkdf2 (i :: p.pass) (saltPrefix p.id p.ext ++ r) (iters p.e) r.length

/-- One round: (l, r) <- (r, l XOR F(i, r)) (43_feistel.md R215). -/
def fstStep (F : Byte → List Byte → List Byte) (lr : List Byte × List Byte) (i : Byte) :
    List Byte × List Byte :=
  (lr.2, xorBytes lr.1 (F i lr.2))

/-- The network over the given round bytes: split in halves, run the rounds, return r || l
(43_feistel.md R215). -/
def fstNetwork (F : Byte → List Byte → List Byte) (rounds : List Byte) (D : List Byte) : List Byte :=
  let h := D.length / 2
  let lr := rounds.foldl (fstStep F) (D.take h, D.drop h)
  lr.2 ++ lr.1

/-- feistel_enc: rounds 0, 1, 2, 3 (43_feistel.md R215). -/
def feistelEnc (F : Byte → List Byte → List Byte) (D : List Byte) : List Byte :=
  fstNetwork F [0, 1, 2, 3] D

/-- feistel_dec: rounds 3, 2, 1, 0 (43_feistel.md R215). -/
def feistelDec (F : Byte → List Byte → List Byte) (C : List Byte) : List Byte :=
  fstNetwork F [3, 2, 1, 0] C

/-- The parameters as G3 to G7 give them (43_feistel.md R210). -/
def fstParams (v : Snapshot) : FstParams where
  pass := v.buf.readBytes (v.regNat 3) (v.regNat 4)
  e := v.regNat 5
  id := (v.reg 6).setWidth 15
  ext := v.regNat 7 == 1

/-- The checks of the shared parameters, in their order (43_feistel.md R210, R214, R216). -/
def withFstParams (v : Snapshot) (body : FstParams → Result) : Result :=
  if v.regNat 5 > 15 then raise .invalidParameter 5
  else if v.regNat 6 > 0x7FFF then raise .invalidIdentifier 6
  else if v.regNat 7 > 1 then raise .invalidParameter 7
  else body (fstParams v)

/-- FST.ROUND's rule (43_feistel.md R214). -/
def fstRoundRule (round : Nat) (size : Nat) (v : Snapshot) : Result :=
  let R := v.regNat 1
  let m := v.regNat 2
  let O := v.regNat 8
  withRegions size [(R, m), (v.regNat 3, v.regNat 4), (O, m)] <|
    if m = 0 then raise .invalidLength 2
    else withFstParams v fun p =>
      okBytes O (fstF p (BitVec.ofNat 8 round) (v.buf.readBytes R m))

/-- FST.ROUND (43_feistel.md R214). -/
def execFstRound (round : Nat) (s : State) : Host.Outcome State Fault Refusal :=
  runRule (fstRoundRule round) s

/-- The rule FST.ENC and FST.DEC share, on their network (43_feistel.md R216, R217). -/
def fstCipherRule (cipher : (Byte → List Byte → List Byte) → List Byte → List Byte) (size : Nat)
    (v : Snapshot) : Result :=
  let D := v.regNat 1
  let L := v.regNat 2
  let O := v.regNat 8
  withRegions size [(D, L), (v.regNat 3, v.regNat 4), (O, L)] <|
    if L = 0 ∨ L % 2 = 1 then raise .invalidLength 2
    else withFstParams v fun p => okBytes O (cipher (fstF p) (v.buf.readBytes D L))

/-- FST.ENC (43_feistel.md R216). -/
def execFstEnc (s : State) : Host.Outcome State Fault Refusal :=
  runRule (fstCipherRule feistelEnc) s

/-- FST.DEC (43_feistel.md R217). -/
def execFstDec (s : State) : Host.Outcome State Fault Refusal :=
  runRule (fstCipherRule feistelDec) s

end Sys2Proof.Machine
end

