-- ==== Sys2Proof/Machine/Galois.lean ====
section
/-! DEFINITION. Arithmetic of GF(2^8) and GF(2^10): the bit-by-bit multiplication, powers, inverses and
the EXP/LOG tables the core runs on (40_gf256.md R130 to R132, 41_gf1024.md R160, R161), and beside
them the polynomial definition of the product, which statements compare with. -/

namespace Sys2Proof.Machine

/-! ### Polynomials over GF(2), bit i the coefficient of x^i -/

/-- The carry-less product of a and b over the low `n` bits of b: the XOR of a << i for each i < n with
b[i] = 1 (40_gf256.md R130). -/
def clmulBits (a b : Nat) : Nat → Nat
  | 0 => 0
  | n + 1 => clmulBits a b n ^^^ (if b.testBit n then a <<< n else 0)

/-- The remainder of the polynomial p modulo m, a polynomial of degree d, when p has degree below
d + k: for i = k-1 down to 0, cancel bit d + i (40_gf256.md R130, "reduction modulo a fixed
irreducible polynomial"). -/
def polyMod (m d p : Nat) : Nat → Nat
  | 0 => p
  | k + 1 => polyMod m d (if p.testBit (d + k) then p ^^^ (m <<< k) else p) k

/-! ### GF(2^8) -/

/-- gf8_add (40_gf256.md R130). -/
def gf8Add (a b : Byte) : Byte := a ^^^ b

/-- a << 1 with conditional reduction by 0x11B on overflow (40_gf256.md R132). -/
def gf8Double (a : Byte) : Byte :=
  let a9 : BitVec 9 := a.setWidth 9 <<< 1
  (if a9.getLsbD 8 then a9 ^^^ 0x11B#9 else a9).setWidth 8

/-- The bit-by-bit multiplication with n iterations to go (40_gf256.md R132). -/
def gf8MulLoop (n : Nat) (a b r : Byte) : Byte :=
  match n with
  | 0 => r
  | n + 1 => gf8MulLoop n (gf8Double a) (b >>> 1) (if b.getLsbD 0 then r ^^^ a else r)

/-- gf8_mul (40_gf256.md R132). -/
def gf8Mul (a b : Byte) : Byte := gf8MulLoop 8 a b 0

/-- gf8_mul by its definition: clmul(a, b) mod_poly 0x11B (40_gf256.md R130). -/
def gf8MulPoly (a b : Byte) : Byte :=
  BitVec.ofNat 8 (polyMod 0x11B 8 (clmulBits a.toNat b.toNat 8) 7)

/-- Square-and-multiply over the low n bits of the exponent, from bit n - 1 down to bit 0
(40_gf256.md R136). -/
def gf8PowLoop (a : Byte) (e : Word) (n : Nat) (r : Byte) : Byte :=
  match n with
  | 0 => r
  | n + 1 =>
    let r2 := gf8Mul r r
    gf8PowLoop a e n (if e.getLsbD n then gf8Mul r2 a else r2)

/-- gf8_pow with the full 32-bit exponent (40_gf256.md R136). -/
def gf8Pow (a : Byte) (e : Word) : Byte := gf8PowLoop a e 32 1

/-- gf8_inv, for a not 0: a to the power 254 (40_gf256.md R135, R139). -/
def gf8Inv (a : Byte) : Byte := gf8Pow a 254

/-- Byte `col` of a 16-byte row, column 0 first. -/
def rowByte (row : BitVec 128) (col : Nat) : Byte := row.extractLsb' (8 * (15 - col)) 8

/-- The table EXP8, row = high nibble of k (40_gf256.md R131). -/
def exp8Rows : List (BitVec 128) := [
  0x0103050F113355FF1A2E7296A1F81335,
  0x5FE13848D87395A4F702060A1E2266AA,
  0xE5345CE43759EB266ABED97090ABE631,
  0x53F5040C143C44CC4FD168B8D36EB2CD,
  0x4CD467A9E03B4DD762A6F10818287888,
  0x839EB9D06BBDDC7F8198B3CE49DB769A,
  0xB5C457F9103050F00B1D2769BBD661A3,
  0xFE192B7D8792ADEC2F7193AEE92060A0,
  0xFB163A4ED26DB7C25DE73256FA153F41,
  0xC35EE23D47C940C05BED2C749CBFDA75,
  0x9FBAD564ACEF2A7E829DBCDF7A8E8980,
  0x9BB6C158E82365AFEA256FB1C843C554,
  0xFC1F2163A5F407091B2D7799B0CB46CA,
  0x45CF4ADE798B8691A8E33E42C651F30E,
  0x12365AEE297B8D8C8F8A8594A7F20D17,
  0x394BDD7C8497A2FD1C246CB4C752F601]

/-- The table LOG8, row = high nibble of a; the slot of 0, which is not defined, holds 00 and is never
read (40_gf256.md R131, 90_conflicts.md C8). -/
def log8Rows : List (BitVec 128) := [
  0x0000190132021AC64BC71B6833EEDF03,
  0x6404E00E348D81EF4C7108C8F8691CC1,
  0x7DC21DB5F9B9276A4DE4A6729AC90978,
  0x652F8A05210FE12412F082453593DA8E,
  0x968FDBBD36D0CE94135CD2F140468338,
  0x66DDFD30BF068B62B325E29822889110,
  0x7E6E48C3A3B61E423A6B2854FA853DBA,
  0x2B790A159B9F5ECA4ED4ACE5F373A757,
  0xAF58A850F4EAD6744FAEE9D5E7E6ADE8,
  0x2CD7757AEB160BF559CB5FB09CA951A0,
  0x7F0CF66F17C449ECD8431F2DA4767BB7,
  0xCCBB3E5AFB60B1863B52A16CAA55299D,
  0x97B2879061BEDCFCBC95CFCD373F5BD1,
  0x5339843C41A26D47142A9E5D56F2D3AB,
  0x441192D923202E89B47CB8267799E3A5,
  0x674AEDDEC531FE180D638C80C0F77007]

/-- EXP8[k] (40_gf256.md R131). -/
def exp8 (k : Byte) : Byte := rowByte (exp8Rows.getD (k.toNat / 16) 0) (k.toNat % 16)

/-- LOG8[a], for a not 0 (40_gf256.md R131). -/
def log8 (a : Byte) : Byte := rowByte (log8Rows.getD (a.toNat / 16) 0) (a.toNat % 16)

/-! ### GF(2^10) -/

/-- gf10_add (41_gf1024.md R160). -/
def gf10Add (a b : Word10) : Word10 := a ^^^ b

/-- a << 1 with conditional reduction by 0x409 (41_gf1024.md R161). -/
def gf10Double (a : Word10) : Word10 :=
  let a11 : BitVec 11 := a.setWidth 11 <<< 1
  (if a11.getLsbD 10 then a11 ^^^ 0x409#11 else a11).setWidth 10

/-- The bit-by-bit multiplication with n iterations to go (41_gf1024.md R161). -/
def gf10MulLoop (n : Nat) (a b r : Word10) : Word10 :=
  match n with
  | 0 => r
  | n + 1 => gf10MulLoop n (gf10Double a) (b >>> 1) (if b.getLsbD 0 then r ^^^ a else r)

/-- gf10_mul (41_gf1024.md R161). -/
def gf10Mul (a b : Word10) : Word10 := gf10MulLoop 10 a b 0

/-- gf10_mul by its definition: clmul(a, b) mod_poly 0x409 (41_gf1024.md R160). -/
def gf10MulPoly (a b : Word10) : Word10 :=
  BitVec.ofNat 10 (polyMod 0x409 10 (clmulBits a.toNat b.toNat 10) 9)

/-- Square-and-multiply over the low n bits of the exponent (41_gf1024.md R166). -/
def gf10PowLoop (a : Word10) (e : Word) (n : Nat) (r : Word10) : Word10 :=
  match n with
  | 0 => r
  | n + 1 =>
    let r2 := gf10Mul r r
    gf10PowLoop a e n (if e.getLsbD n then gf10Mul r2 a else r2)

/-- gf10_pow with the full 32-bit exponent (41_gf1024.md R166). -/
def gf10Pow (a : Word10) (e : Word) : Word10 := gf10PowLoop a e 32 1

/-- gf10_inv, for a not 0: a to the power 1022 (41_gf1024.md R165, R167). -/
def gf10Inv (a : Word10) : Word10 := gf10Pow a 1022

end Sys2Proof.Machine
end

