-- ==== Sys2Proof/Machine/Gf1024.lean ====
section
/-! DEFINITION. GF10.ADD, GF10.MUL, GF10.INV and GF10.POW (41_gf1024.md). -/

namespace Sys2Proof.Machine

/-- Two GF(2^10) operands from the low 10 bits of G[rs1] and G[rs2], the result zero-extended into
G[rd] (41_gf1024.md R167, 10_state.md R32). -/
def gf10Binary (f : Word10 → Word10 → Word10) (rd rs1 rs2 : Reg) (v : Snapshot) : Result :=
  okReg rd ((f (low10 (v.reg rs1)) (low10 (v.reg rs2))).setWidth 32)

/-- GF10.ADD (41_gf1024.md R163). -/
def execGf10Add (rd rs1 rs2 : Reg) (s : State) : Host.Outcome State Fault Refusal :=
  runRule (fun _ v => gf10Binary gf10Add rd rs1 rs2 v) s

/-- GF10.MUL (41_gf1024.md R164). -/
def execGf10Mul (rd rs1 rs2 : Reg) (s : State) : Host.Outcome State Fault Refusal :=
  runRule (fun _ v => gf10Binary gf10Mul rd rs1 rs2 v) s

/-- GF10.INV: zero raises ZERO_ELEMENT(0x22) (41_gf1024.md R165). -/
def execGf10Inv (rd rs1 : Reg) (s : State) : Host.Outcome State Fault Refusal :=
  runRule (fun _ v =>
    let a := low10 (v.reg rs1)
    if a = 0 then raise .zeroElement 0x22 else okReg rd ((gf10Inv a).setWidth 32)) s

/-- GF10.POW: the low 10 bits of G[rs1] to the full 32-bit G[rs2] (41_gf1024.md R166). -/
def execGf10Pow (rd rs1 rs2 : Reg) (s : State) : Host.Outcome State Fault Refusal :=
  runRule (fun _ v => okReg rd ((gf10Pow (low10 (v.reg rs1)) (v.reg rs2)).setWidth 32)) s

end Sys2Proof.Machine
end

