-- ==== Sys2Proof/Machine/Gf256.lean ====
section
/-! DEFINITION. GF8.ADD, GF8.MUL, GF8.INV, GF8.POW, GF8.EXP and GF8.LOG (40_gf256.md). The opcode that
ERRINFO reports with ZERO_ELEMENT is the command's (60_exceptions.md R311). -/

namespace Sys2Proof.Machine

/-- Two GF(2^8) operands from the low bytes of G[rs1] and G[rs2], the result zero-extended into G[rd]
(40_gf256.md R139, 10_state.md R32). -/
def gf8Binary (f : Byte → Byte → Byte) (rd rs1 rs2 : Reg) (v : Snapshot) : Result :=
  okReg rd ((f (low8 (v.reg rs1)) (low8 (v.reg rs2))).setWidth 32)

/-- One nonzero GF(2^8) operand from the low byte of G[rs1]; zero raises ZERO_ELEMENT(op)
(40_gf256.md R135, R138). -/
def gf8Nonzero (op : Nat) (f : Byte → Byte) (rd rs1 : Reg) (v : Snapshot) : Result :=
  let a := low8 (v.reg rs1)
  if a = 0 then raise .zeroElement op else okReg rd ((f a).setWidth 32)

/-- GF8.ADD (40_gf256.md R133). -/
def execGf8Add (rd rs1 rs2 : Reg) (s : State) : Host.Outcome State Fault Refusal :=
  runRule (fun _ v => gf8Binary gf8Add rd rs1 rs2 v) s

/-- GF8.MUL (40_gf256.md R134). -/
def execGf8Mul (rd rs1 rs2 : Reg) (s : State) : Host.Outcome State Fault Refusal :=
  runRule (fun _ v => gf8Binary gf8Mul rd rs1 rs2 v) s

/-- GF8.INV (40_gf256.md R135). -/
def execGf8Inv (rd rs1 : Reg) (s : State) : Host.Outcome State Fault Refusal :=
  runRule (fun _ v => gf8Nonzero 0x12 gf8Inv rd rs1 v) s

/-- GF8.POW: the low byte of G[rs1] to the full 32-bit G[rs2] (40_gf256.md R136). -/
def execGf8Pow (rd rs1 rs2 : Reg) (s : State) : Host.Outcome State Fault Refusal :=
  runRule (fun _ v => okReg rd ((gf8Pow (low8 (v.reg rs1)) (v.reg rs2)).setWidth 32)) s

/-- GF8.EXP (40_gf256.md R137). -/
def execGf8Exp (rd rs1 : Reg) (s : State) : Host.Outcome State Fault Refusal :=
  runRule (fun _ v => okReg rd ((exp8 (low8 (v.reg rs1))).setWidth 32)) s

/-- GF8.LOG (40_gf256.md R138). -/
def execGf8Log (rd rs1 : Reg) (s : State) : Host.Outcome State Fault Refusal :=
  runRule (fun _ v => gf8Nonzero 0x15 log8 rd rs1 v) s

end Sys2Proof.Machine
end

