-- ==== Sys2Proof/Machine/MoveLoadStore.lean ====
section
/-! DEFINITION. NOP, LI, LIH, MOV, LDB, STB, LDH, STH and WIPE (46_move_load_store.md). -/

namespace Sys2Proof.Machine

/-- NOP: no state change besides the completion flags (46_move_load_store.md R280). -/
def execNop (s : State) : Host.Outcome State Fault Refusal :=
  runRule (fun _ _ => .ok {}) s

/-- LI: G[rd] <- zext_32(imm16) (46_move_load_store.md R284). -/
def execLi (rd : Reg) (imm : Nat) (s : State) : Host.Outcome State Fault Refusal :=
  runRule (fun _ _ => okReg rd (immLow imm)) s

/-- LIH: G[rd] <- imm16 * 2^16 + G[rd][15:0] (46_move_load_store.md R285). -/
def execLih (rd : Reg) (imm : Nat) (s : State) : Host.Outcome State Fault Refusal :=
  runRule (fun _ v => okReg rd (immHigh imm (v.reg rd))) s

/-- MOV: G[rd] <- G[rs1] (46_move_load_store.md R286). -/
def execMov (rd rs1 : Reg) (s : State) : Host.Outcome State Fault Refusal :=
  runRule (fun _ v => okReg rd (v.reg rs1)) s

/-- LDB: G[rd] <- zext_32(BUF[ea]) (46_move_load_store.md R287). -/
def execLdb (rd rs1 : Reg) (off : Nat) (s : State) : Host.Outcome State Fault Refusal :=
  runRule (fun size v =>
    let ea := effAddr v rs1 off
    withRegions size [(ea, 1)] (okReg rd ((v.buf.read ea).setWidth 32))) s

/-- STB: BUF[ea] <- G[rs2][7:0] (46_move_load_store.md R288). -/
def execStb (rs1 rs2 : Reg) (off : Nat) (s : State) : Host.Outcome State Fault Refusal :=
  runRule (fun size v =>
    let ea := effAddr v rs1 off
    withRegions size [(ea, 1)] (okBytes ea [low8 (v.reg rs2)])) s

/-- LDH: G[rd] <- zext_32(BUF[ea] * 2^8 + BUF[ea+1]) (46_move_load_store.md R289). -/
def execLdh (rd rs1 : Reg) (off : Nat) (s : State) : Host.Outcome State Fault Refusal :=
  runRule (fun size v =>
    let ea := effAddr v rs1 off
    withRegions size [(ea, 2)] (okReg rd ((v.buf.readHalf ea).setWidth 32))) s

/-- STH: BUF[ea] <- G[rs2][15:8]; BUF[ea+1] <- G[rs2][7:0] (46_move_load_store.md R290). -/
def execSth (rs1 rs2 : Reg) (off : Nat) (s : State) : Host.Outcome State Fault Refusal :=
  runRule (fun size v =>
    let ea := effAddr v rs1 off
    withRegions size [(ea, 2)] (okBytes ea (bytesOfHalf (low16 (v.reg rs2))))) s

/-- WIPE: BUF[A .. A+m) <- 0, A = G1, m = G2 (46_move_load_store.md R291). -/
def execWipe (s : State) : Host.Outcome State Fault Refusal :=
  runRule (fun size v =>
    let A := v.regNat 1
    let m := v.regNat 2
    withRegions size [(A, m)] (okBytes A (List.replicate m 0))) s

end Sys2Proof.Machine
end

