-- ==== Sys2Proof/Machine/Shamir.lean ====
section
/-! DEFINITION. SSS.INTERP, SSS.DIGEST, SSS.SPLIT and SSS.RECON (42_shamir.md). -/

namespace Sys2Proof.Machine

/-! ### Interpolation -/

/-- XOR of a list of field elements, 0 for the empty sum (42_shamir.md R183). -/
def gf8Sum (xs : List Byte) : Byte := xs.foldl gf8Add 0

/-- Product of a list of field elements, 1 for the empty product (42_shamir.md R183). -/
def gf8Prod (xs : List Byte) : Byte := xs.foldl gf8Mul 1

/-- num_i / den_i for the point at xi: the products over the other points' coordinates
(42_shamir.md R183). The coordinates are pairwise distinct, so "j != i" is "x_j != x_i". -/
def lagrangeBasis (xs : List Byte) (xi x : Byte) : Byte :=
  let others := xs.filter (· ≠ xi)
  gf8Mul (gf8Prod (others.map (gf8Add x))) (gf8Inv (gf8Prod (others.map (gf8Add xi))))

/-- interp1 with its direct pass-through shortcut (42_shamir.md R183). -/
def interp1 (points : List (Byte × Byte)) (x : Byte) : Byte :=
  match points.find? (fun p => p.1 == x) with
  | some p => p.2
  | none => gf8Sum (points.map fun p => gf8Mul p.2 (lagrangeBasis (points.map (·.1)) p.1 x))

/-- Lane p of a point table (42_shamir.md R180). -/
def lane (recs : List Point) (p : Nat) : List (Byte × Byte) :=
  recs.map fun r => (r.1, r.2.getD p 0)

/-- The vector form: interp1 lane by lane, for values of n bytes (42_shamir.md R183). -/
def interp (n : Nat) (recs : List Point) (x : Byte) : List Byte :=
  (List.range n).map fun p => interp1 (lane recs p) x

/-- The log-domain computation of interp1 for an x that is no point's (42_shamir.md R184); a statement
says that it equals interp1. -/
def interp1Log (points : List (Byte × Byte)) (x : Byte) : Byte :=
  let logs := fun (c : Byte) (xs : List Byte) => (xs.map fun y => (log8 (c ^^^ y)).toNat).sum
  let xs := points.map (·.1)
  gf8Sum (points.map fun p =>
    let others := xs.filter (· ≠ p.1)
    let lb : Int := (logs x xs : Int) - (log8 (x ^^^ p.1)).toNat - logs p.1 others
    if p.2 = 0 then 0
    else exp8 (BitVec.ofNat 8 (((log8 p.2).toNat + lb) % 255).toNat))

/-- A reserved coordinate: 254 carries the digest, 255 the secret (42_shamir.md R182). -/
def reservedX (x : Byte) : Bool := x == 254 || x == 255

/-- SSS.INTERP's rule (42_shamir.md R185). -/
def interpRule (size : Nat) (v : Snapshot) : Result :=
  let P := v.regNat 1
  let k := v.regNat 2
  let n := v.regNat 3
  let x := v.regNat 4
  let O := v.regNat 5
  withRegions size [(P, k * (1 + n)), (O, n)] <|
    if n = 0 then raise .invalidLength 3
    else if x > 255 then raise .invalidParameter 4
    else if k = 0 then raise .insufficientShares (sharesInfo 0 1)
    else
      let recs := readRecords v.buf P k n
      if hasDuplicate (recs.map (·.1)) then raise .invalidShareData 1
      else okBytes O (interp n recs (BitVec.ofNat 8 x))

/-- SSS.INTERP (42_shamir.md R185). -/
def execSssInterp (s : State) : Host.Outcome State Fault Refusal := runRule interpRule s

/-! ### Digest -/

/-- digest(key, msg): the first 4 bytes of HMAC_SHA256 (42_shamir.md R187). -/
def digest (key msg : List Byte) : List Byte := (hmacSha256 key msg).take 4

/-- SSS.DIGEST's rule (42_shamir.md R188). -/
def digestRule (rd : Reg) (size : Nat) (v : Snapshot) : Result :=
  withRegions size [(v.regNat 1, v.regNat 2), (v.regNat 3, v.regNat 4)] <|
    let d := digest (v.buf.readBytes (v.regNat 1) (v.regNat 2))
      (v.buf.readBytes (v.regNat 3) (v.regNat 4))
    okReg rd (wordOfBytes (d.getD 0 0) (d.getD 1 0) (d.getD 2 0) (d.getD 3 0))

/-- SSS.DIGEST (42_shamir.md R188). -/
def execSssDigest (rd : Reg) (s : State) : Host.Outcome State Fault Refusal :=
  runRule (digestRule rd) s

/-! ### Split -/

/-- Entropy(m) taken `start` bytes into the command's draws (00_scope.md R11, 60_exceptions.md R325). -/
def entropyBytes (E : Nat → Byte) (start m : Nat) : List Byte :=
  (List.range m).map fun t => E (start + t)

/-- How many entropy bytes a split draws: (T-2)*n + (n-4) (42_shamir.md R192). -/
def splitDraws (n T : Nat) : Nat := (T - 2) * n + (n - 4)

/-- The T base points for T >= 2: auxiliary points at 0 .. T-3, the digest share at 254, the secret
share at 255; the draws in the order of R192 (42_shamir.md R191). -/
def splitBase (E : Nat → Byte) (secret : List Byte) (T : Nat) : List Point :=
  let n := secret.length
  let pad := entropyBytes E ((T - 2) * n) (n - 4)
  (List.range (T - 2)).map (fun j => (BitVec.ofNat 8 j, entropyBytes E (j * n) n))
    ++ [(254, digest pad secret ++ pad), (255, secret)]

/-- The value of the share at x (42_shamir.md R190). -/
def shareValue (E : Nat → Byte) (secret : List Byte) (T : Nat) (x : Byte) : List Byte :=
  if T = 1 then secret else interp secret.length (splitBase E secret T) x

/-- SSS.SPLIT's rule on the bytes E the entropy port has ahead (42_shamir.md R190). -/
def splitRule (E : Nat → Byte) (size : Nat) (v : Snapshot) : Result :=
  let S := v.regNat 1
  let n := v.regNat 2
  let T := v.regNat 3
  let N := v.regNat 4
  let X := v.regNat 5
  let O := v.regNat 6
  withRegions size [(S, n), (X, N), (O, N * (1 + n))] <|
    if T < 1 ∨ T > N then raise .invalidThreshold 3
    else if N > 255 then raise .invalidThreshold 4
    else
      let xs := v.buf.readBytes X N
      if hasDuplicate xs then raise .invalidShareData 1
      else if xs.any reservedX then raise .invalidShareData 2
      else if n = 0 then raise .invalidLength 2
      else if T ≥ 2 ∧ n ≤ 4 then raise .invalidLength 2
      else
        let secret := v.buf.readBytes S n
        .ok {
          addr := O
          bytes := bytesOfRecords (xs.map fun x => (x, shareValue E secret T x))
          draws := if T = 1 then 0 else splitDraws n T }

/-- SSS.SPLIT, the one command that draws entropy (42_shamir.md R190, R192). -/
def execSssSplit (s : State) : Host.Outcome State Fault Refusal :=
  runRule (splitRule s.entropyAhead) s

/-! ### Reconstruct -/

/-- SSS.RECON's rule (42_shamir.md R195, R196). -/
def reconRule (size : Nat) (v : Snapshot) : Result :=
  let P := v.regNat 1
  let k := v.regNat 2
  let n := v.regNat 3
  let T := v.regNat 4
  let O := v.regNat 5
  withRegions size [(P, k * (1 + n)), (O, n)] <|
    if T < 1 ∨ T > 255 then raise .invalidThreshold 4
    else if k < T then raise .insufficientShares (sharesInfo k T)
    else if n = 0 then raise .invalidLength 3
    else if T ≥ 2 ∧ n ≤ 4 then raise .invalidLength 3
    else
      let recs := readRecords v.buf P k n
      if hasDuplicate (recs.map (·.1)) then raise .invalidShareData 1
      else if recs.any (fun r => reservedX r.1) then raise .invalidShareData 2
      else if T = 1 then okBytes O ((recs.map (·.2)).headD [])
      else
        let s := interp n recs 255
        let d := interp n recs 254
        if digest (d.drop 4) s = d.take 4 then okBytes O s
        else raise .digestVerificationFailed 0

/-- SSS.RECON (42_shamir.md R195). -/
def execSssRecon (s : State) : Host.Outcome State Fault Refusal := runRule reconRule s

end Sys2Proof.Machine
end

