-- ==== Sys2Proof/Syntax.lean ====
section
/-! DEFINITION. The 31 commands of 30_encoding.md R108, one constructor per row of the opcode table,
with the operands of the assembly syntax (R111). Immediates are plain numbers as an assembler reads
them; WellFormed.lean holds the range each must fit. -/

namespace Sys2Proof

/-- A command of the core, in the role of an instruction (30_encoding.md R108, R111). -/
inductive Instr where
  /-- NOP -/
  | nop
  /-- LI Gd, imm16 -/
  | li (rd : Reg) (imm : Nat)
  /-- LIH Gd, imm16 -/
  | lih (rd : Reg) (imm : Nat)
  /-- MOV Gd, Gs -/
  | mov (rd rs1 : Reg)
  /-- LDB Gd, imm12(Gs) -/
  | ldb (rd rs1 : Reg) (off : Nat)
  /-- STB Gt, imm12(Gs): rs1 = s, rs2 = t -/
  | stb (rs1 rs2 : Reg) (off : Nat)
  /-- LDH Gd, imm12(Gs) -/
  | ldh (rd rs1 : Reg) (off : Nat)
  /-- STH Gt, imm12(Gs): rs1 = s, rs2 = t -/
  | sth (rs1 rs2 : Reg) (off : Nat)
  /-- WIPE -/
  | wipe
  /-- GF8.ADD Gd, Ga, Gb -/
  | gf8Add (rd rs1 rs2 : Reg)
  /-- GF8.MUL Gd, Ga, Gb -/
  | gf8Mul (rd rs1 rs2 : Reg)
  /-- GF8.INV Gd, Ga -/
  | gf8Inv (rd rs1 : Reg)
  /-- GF8.POW Gd, Ga, Ge -/
  | gf8Pow (rd rs1 rs2 : Reg)
  /-- GF8.EXP Gd, Gk -/
  | gf8Exp (rd rs1 : Reg)
  /-- GF8.LOG Gd, Ga -/
  | gf8Log (rd rs1 : Reg)
  /-- GF10.ADD Gd, Ga, Gb -/
  | gf10Add (rd rs1 rs2 : Reg)
  /-- GF10.MUL Gd, Ga, Gb -/
  | gf10Mul (rd rs1 rs2 : Reg)
  /-- GF10.INV Gd, Ga -/
  | gf10Inv (rd rs1 : Reg)
  /-- GF10.POW Gd, Ga, Ge -/
  | gf10Pow (rd rs1 rs2 : Reg)
  /-- SSS.INTERP -/
  | sssInterp
  /-- SSS.DIGEST Gd -/
  | sssDigest (rd : Reg)
  /-- SSS.SPLIT -/
  | sssSplit
  /-- SSS.RECON -/
  | sssRecon
  /-- FST.ROUND i -/
  | fstRound (round : Nat)
  /-- FST.ENC -/
  | fstEnc
  /-- FST.DEC -/
  | fstDec
  /-- RS.POLYMOD Gd -/
  | rsPolymod (rd : Reg)
  /-- RS.CREATE Gd, e -/
  | rsCreate (rd : Reg) (ext : Bool)
  /-- RS.VERIFY Gd, e -/
  | rsVerify (rd : Reg) (ext : Bool)
  /-- CODEC.ENC Gd -/
  | codecEnc (rd : Reg)
  /-- CODEC.DEC -/
  | codecDec
  deriving DecidableEq, Repr

/-- The pseudo-instructions of 30_encoding.md R113; Machine/Pseudo.lean expands them. -/
inductive Pseudo where
  /-- GF8.SUB Gd, Ga, Gb -/
  | gf8Sub (rd rs1 rs2 : Reg)
  /-- GF10.SUB Gd, Ga, Gb -/
  | gf10Sub (rd rs1 rs2 : Reg)
  /-- GF8.SQR Gd, Ga -/
  | gf8Sqr (rd rs1 : Reg)
  /-- GF10.SQR Gd, Ga -/
  | gf10Sqr (rd rs1 : Reg)
  /-- GF8.DIV Gd, Ga, Gb -/
  | gf8Div (rd rs1 rs2 : Reg)
  /-- GF10.DIV Gd, Ga, Gb -/
  | gf10Div (rd rs1 rs2 : Reg)
  /-- CLR Gd -/
  | clr (rd : Reg)
  /-- LI32 Gd, v -/
  | li32 (rd : Reg) (v : Word)
  deriving DecidableEq, Repr

end Sys2Proof
end

