-- ==== Sys2Proof/Machine/Dispatch.lean ====
section
/-! DEFINITION. The dispatch of a command to its meaning, one arm per constructor
(60_exceptions.md R301). -/

namespace Sys2Proof.Machine

-- Execution and completion of a decoded command (60_exceptions.md R301, R305).
def exec (i : Instr) (s : State) : Host.Outcome State Fault Refusal :=
  match i with
  | .nop => Sys2Proof.Machine.execNop s
  | .li rd imm => Sys2Proof.Machine.execLi rd imm s
  | .lih rd imm => Sys2Proof.Machine.execLih rd imm s
  | .mov rd rs1 => Sys2Proof.Machine.execMov rd rs1 s
  | .ldb rd rs1 off => Sys2Proof.Machine.execLdb rd rs1 off s
  | .stb rs1 rs2 off => Sys2Proof.Machine.execStb rs1 rs2 off s
  | .ldh rd rs1 off => Sys2Proof.Machine.execLdh rd rs1 off s
  | .sth rs1 rs2 off => Sys2Proof.Machine.execSth rs1 rs2 off s
  | .wipe => Sys2Proof.Machine.execWipe s
  | .gf8Add rd rs1 rs2 => Sys2Proof.Machine.execGf8Add rd rs1 rs2 s
  | .gf8Mul rd rs1 rs2 => Sys2Proof.Machine.execGf8Mul rd rs1 rs2 s
  | .gf8Inv rd rs1 => Sys2Proof.Machine.execGf8Inv rd rs1 s
  | .gf8Pow rd rs1 rs2 => Sys2Proof.Machine.execGf8Pow rd rs1 rs2 s
  | .gf8Exp rd rs1 => Sys2Proof.Machine.execGf8Exp rd rs1 s
  | .gf8Log rd rs1 => Sys2Proof.Machine.execGf8Log rd rs1 s
  | .gf10Add rd rs1 rs2 => Sys2Proof.Machine.execGf10Add rd rs1 rs2 s
  | .gf10Mul rd rs1 rs2 => Sys2Proof.Machine.execGf10Mul rd rs1 rs2 s
  | .gf10Inv rd rs1 => Sys2Proof.Machine.execGf10Inv rd rs1 s
  | .gf10Pow rd rs1 rs2 => Sys2Proof.Machine.execGf10Pow rd rs1 rs2 s
  | .sssInterp => Sys2Proof.Machine.execSssInterp s
  | .sssDigest rd => Sys2Proof.Machine.execSssDigest rd s
  | .sssSplit => Sys2Proof.Machine.execSssSplit s
  | .sssRecon => Sys2Proof.Machine.execSssRecon s
  | .fstRound round => Sys2Proof.Machine.execFstRound round s
  | .fstEnc => Sys2Proof.Machine.execFstEnc s
  | .fstDec => Sys2Proof.Machine.execFstDec s
  | .rsPolymod rd => Sys2Proof.Machine.execRsPolymod rd s
  | .rsCreate rd ext => Sys2Proof.Machine.execRsCreate rd ext s
  | .rsVerify rd ext => Sys2Proof.Machine.execRsVerify rd ext s
  | .codecEnc rd => Sys2Proof.Machine.execCodecEnc rd s
  | .codecDec => Sys2Proof.Machine.execCodecDec s

end Sys2Proof.Machine
end

