-- ==== Sys2Proof/WellFormed.lean ====
section
/-! DEFINITION. Which commands an assembler accepts: every immediate fits its field without wrapping
(30_encoding.md R101, R107, R111). Register operands are in range by their type. -/

namespace Sys2Proof

/-- imm16 is 0 .. 65535 (30_encoding.md R101). -/
def fitsImm16 (n : Nat) : Bool := n < 2 ^ 16

/-- imm12 as a byte offset is 0 .. 4095 (30_encoding.md R107). -/
def fitsImm12 (n : Nat) : Bool := n < 2 ^ 12

/-- FST.ROUND's round byte is 0 .. 255 (30_encoding.md R111). -/
def fitsRound (n : Nat) : Bool := n < 2 ^ 8

/-- The range check of an assembler, command by command (30_encoding.md R111). -/
def Instr.wellFormed (i : Instr) : Bool :=
  match i with
  | .nop => true
  | .li _ imm => fitsImm16 imm
  | .lih _ imm => fitsImm16 imm
  | .mov _ _ => true
  | .ldb _ _ off => fitsImm12 off
  | .stb _ _ off => fitsImm12 off
  | .ldh _ _ off => fitsImm12 off
  | .sth _ _ off => fitsImm12 off
  | .wipe => true
  | .gf8Add _ _ _ => true
  | .gf8Mul _ _ _ => true
  | .gf8Inv _ _ => true
  | .gf8Pow _ _ _ => true
  | .gf8Exp _ _ => true
  | .gf8Log _ _ => true
  | .gf10Add _ _ _ => true
  | .gf10Mul _ _ _ => true
  | .gf10Inv _ _ => true
  | .gf10Pow _ _ _ => true
  | .sssInterp => true
  | .sssDigest _ => true
  | .sssSplit => true
  | .sssRecon => true
  | .fstRound round => fitsRound round
  | .fstEnc => true
  | .fstDec => true
  | .rsPolymod _ => true
  | .rsCreate _ _ => true
  | .rsVerify _ _ => true
  | .codecEnc _ => true
  | .codecDec => true

/-- A well-formed command: one that has an encoding (30_encoding.md R111). -/
abbrev WellFormed (i : Instr) : Prop := i.wellFormed = true

end Sys2Proof
end

