-- ==== Sys2Proof/Decode.lean ====
section
/-! DEFINITION. The command decoder and encoder (30_encoding.md R100 to R110). The decoder reads the
fields and checks the zero fields of the format (R102 to R106); the opcode table of R108, with its
match and mask, stands beside it, and a statement says that the two agree. -/

namespace Sys2Proof

/-- op = w[31:24] (30_encoding.md R101). -/
def opField (w : Word) : BitVec 8 := w.extractLsb' 24 8

/-- rd = w[23:20] (30_encoding.md R101). -/
def rdField (w : Word) : Reg := (w.extractLsb' 20 4).toFin

/-- rs1 = w[19:16] (30_encoding.md R101). -/
def rs1Field (w : Word) : Reg := (w.extractLsb' 16 4).toFin

/-- rs2 = w[15:12] (30_encoding.md R101). -/
def rs2Field (w : Word) : Reg := (w.extractLsb' 12 4).toFin

/-- imm12 = w[11:0] (30_encoding.md R101). -/
def imm12Field (w : Word) : BitVec 12 := w.extractLsb' 0 12

/-- imm16 = w[15:0] (30_encoding.md R101). -/
def imm16Field (w : Word) : BitVec 16 := w.extractLsb' 0 16

/-- Why a word is no command; every one is reported as ILLEGAL_COMMAND (30_encoding.md R106, R109). -/
inductive DecodeError where
  /-- No row of R108 has this opcode (R109). -/
  | unassignedOpcode (op : Byte)
  /-- The opcode is assigned and a bit its row marks as 0 is set (R106). -/
  | zeroFieldSet (op : Byte)
  deriving DecidableEq, Repr

/-- The `len` bits of w from bit `lo` up are all 0 (30_encoding.md R106). -/
def zeroBits (w : Word) (lo len : Nat) : Bool := w.extractLsb' lo len == 0#len

/-- The command i when the row's zero fields are 0, else the rejection by name (30_encoding.md R106). -/
def whenZero (w : Word) (fieldsZero : Bool) (i : Instr) : Except DecodeError Instr :=
  if fieldsZero then .ok i else .error (.zeroFieldSet (opField w))

/-- The decoder: a total function of the 32-bit word (30_encoding.md R110), the zero fields of each
row as R108 lists them. -/
def decode (w : Word) : Except DecodeError Instr :=
  let rd := rdField w
  let rs1 := rs1Field w
  let rs2 := rs2Field w
  let imm12 := (imm12Field w).toNat
  let imm16 := (imm16Field w).toNat
  match opField w with
  | 0x00#8 => whenZero w (zeroBits w 0 24) .nop
  | 0x01#8 => whenZero w (zeroBits w 16 4) (.li rd imm16)
  | 0x02#8 => whenZero w (zeroBits w 16 4) (.lih rd imm16)
  | 0x03#8 => whenZero w (zeroBits w 12 4 && zeroBits w 0 12) (.mov rd rs1)
  | 0x04#8 => whenZero w (zeroBits w 12 4) (.ldb rd rs1 imm12)
  | 0x05#8 => whenZero w (zeroBits w 20 4) (.stb rs1 rs2 imm12)
  | 0x06#8 => whenZero w (zeroBits w 12 4) (.ldh rd rs1 imm12)
  | 0x07#8 => whenZero w (zeroBits w 20 4) (.sth rs1 rs2 imm12)
  | 0x08#8 => whenZero w (zeroBits w 20 4 && zeroBits w 12 8 && zeroBits w 0 12) .wipe
  | 0x10#8 => whenZero w (zeroBits w 0 12) (.gf8Add rd rs1 rs2)
  | 0x11#8 => whenZero w (zeroBits w 0 12) (.gf8Mul rd rs1 rs2)
  | 0x12#8 => whenZero w (zeroBits w 12 4 && zeroBits w 0 12) (.gf8Inv rd rs1)
  | 0x13#8 => whenZero w (zeroBits w 0 12) (.gf8Pow rd rs1 rs2)
  | 0x14#8 => whenZero w (zeroBits w 12 4 && zeroBits w 0 12) (.gf8Exp rd rs1)
  | 0x15#8 => whenZero w (zeroBits w 12 4 && zeroBits w 0 12) (.gf8Log rd rs1)
  | 0x20#8 => whenZero w (zeroBits w 0 12) (.gf10Add rd rs1 rs2)
  | 0x21#8 => whenZero w (zeroBits w 0 12) (.gf10Mul rd rs1 rs2)
  | 0x22#8 => whenZero w (zeroBits w 12 4 && zeroBits w 0 12) (.gf10Inv rd rs1)
  | 0x23#8 => whenZero w (zeroBits w 0 12) (.gf10Pow rd rs1 rs2)
  | 0x30#8 => whenZero w (zeroBits w 20 4 && zeroBits w 12 8 && zeroBits w 0 12) .sssInterp
  | 0x31#8 => whenZero w (zeroBits w 12 8 && zeroBits w 0 12) (.sssDigest rd)
  | 0x32#8 => whenZero w (zeroBits w 20 4 && zeroBits w 12 8 && zeroBits w 0 12) .sssSplit
  | 0x33#8 => whenZero w (zeroBits w 20 4 && zeroBits w 12 8 && zeroBits w 0 12) .sssRecon
  | 0x40#8 => whenZero w (zeroBits w 20 4 && zeroBits w 12 8 && zeroBits w 8 4)
      (.fstRound (w.extractLsb' 0 8).toNat)
  | 0x41#8 => whenZero w (zeroBits w 20 4 && zeroBits w 12 8 && zeroBits w 0 12) .fstEnc
  | 0x42#8 => whenZero w (zeroBits w 20 4 && zeroBits w 12 8 && zeroBits w 0 12) .fstDec
  | 0x50#8 => whenZero w (zeroBits w 12 8 && zeroBits w 0 12) (.rsPolymod rd)
  | 0x51#8 => whenZero w (zeroBits w 12 8 && zeroBits w 1 11) (.rsCreate rd (w.getLsbD 0))
  | 0x52#8 => whenZero w (zeroBits w 12 8 && zeroBits w 1 11) (.rsVerify rd (w.getLsbD 0))
  | 0x60#8 => whenZero w (zeroBits w 12 8 && zeroBits w 0 12) (.codecEnc rd)
  | 0x61#8 => whenZero w (zeroBits w 20 4 && zeroBits w 12 8 && zeroBits w 0 12) .codecDec
  | op => .error (.unassignedOpcode op)

/-- A register's 4-bit field (30_encoding.md R101). -/
def regField (r : Reg) : BitVec 4 := BitVec.ofFin r

/-- Format R (30_encoding.md R102). -/
def encodeR (op : Byte) (rd rs1 rs2 : Reg) : Word :=
  op ++ regField rd ++ regField rs1 ++ regField rs2 ++ 0#12

/-- Format I (30_encoding.md R103). -/
def encodeI (op : Byte) (rd rs1 rs2 : Reg) (off : Nat) : Word :=
  op ++ regField rd ++ regField rs1 ++ regField rs2 ++ BitVec.ofNat 12 off

/-- Format U (30_encoding.md R104). -/
def encodeU (op : Byte) (rd : Reg) (imm : Nat) : Word :=
  op ++ regField rd ++ 0#4 ++ BitVec.ofNat 16 imm

/-- Format B (30_encoding.md R105). -/
def encodeB (op : Byte) (rd : Reg) (imm12 : BitVec 12) : Word :=
  op ++ regField rd ++ 0#8 ++ imm12

/-- imm12 of a bulk command that holds the extendable flag in bit 0 (30_encoding.md R107). -/
def extImm (ext : Bool) : BitVec 12 := (BitVec.ofBool ext).setWidth 12

/-- The encoder: the word of a command (30_encoding.md R108). -/
def encode (i : Instr) : Word :=
  match i with
  | .nop => encodeR 0x00 0 0 0
  | .li rd imm => encodeU 0x01 rd imm
  | .lih rd imm => encodeU 0x02 rd imm
  | .mov rd rs1 => encodeR 0x03 rd rs1 0
  | .ldb rd rs1 off => encodeI 0x04 rd rs1 0 off
  | .stb rs1 rs2 off => encodeI 0x05 0 rs1 rs2 off
  | .ldh rd rs1 off => encodeI 0x06 rd rs1 0 off
  | .sth rs1 rs2 off => encodeI 0x07 0 rs1 rs2 off
  | .wipe => encodeB 0x08 0 0
  | .gf8Add rd rs1 rs2 => encodeR 0x10 rd rs1 rs2
  | .gf8Mul rd rs1 rs2 => encodeR 0x11 rd rs1 rs2
  | .gf8Inv rd rs1 => encodeR 0x12 rd rs1 0
  | .gf8Pow rd rs1 rs2 => encodeR 0x13 rd rs1 rs2
  | .gf8Exp rd rs1 => encodeR 0x14 rd rs1 0
  | .gf8Log rd rs1 => encodeR 0x15 rd rs1 0
  | .gf10Add rd rs1 rs2 => encodeR 0x20 rd rs1 rs2
  | .gf10Mul rd rs1 rs2 => encodeR 0x21 rd rs1 rs2
  | .gf10Inv rd rs1 => encodeR 0x22 rd rs1 0
  | .gf10Pow rd rs1 rs2 => encodeR 0x23 rd rs1 rs2
  | .sssInterp => encodeB 0x30 0 0
  | .sssDigest rd => encodeB 0x31 rd 0
  | .sssSplit => encodeB 0x32 0 0
  | .sssRecon => encodeB 0x33 0 0
  | .fstRound round => encodeB 0x40 0 ((BitVec.ofNat 8 round).setWidth 12)
  | .fstEnc => encodeB 0x41 0 0
  | .fstDec => encodeB 0x42 0 0
  | .rsPolymod rd => encodeB 0x50 rd 0
  | .rsCreate rd ext => encodeB 0x51 rd (extImm ext)
  | .rsVerify rd ext => encodeB 0x52 rd (extImm ext)
  | .codecEnc rd => encodeB 0x60 rd 0
  | .codecDec => encodeB 0x61 0 0

/-- One row of the opcode table: a word is the command exactly when word AND mask = match
(30_encoding.md R108). -/
structure OpcodeRow where
  mnemonic : String
  pattern : Word
  mask : Word
  deriving DecidableEq, Repr

/-- The match and mask columns of 30_encoding.md R108, row by row. -/
def opcodeTable : List OpcodeRow := [
  ⟨"NOP", 0x00000000, 0xFFFFFFFF⟩,
  ⟨"LI", 0x01000000, 0xFF0F0000⟩,
  ⟨"LIH", 0x02000000, 0xFF0F0000⟩,
  ⟨"MOV", 0x03000000, 0xFF00FFFF⟩,
  ⟨"LDB", 0x04000000, 0xFF00F000⟩,
  ⟨"STB", 0x05000000, 0xFFF00000⟩,
  ⟨"LDH", 0x06000000, 0xFF00F000⟩,
  ⟨"STH", 0x07000000, 0xFFF00000⟩,
  ⟨"WIPE", 0x08000000, 0xFFFFFFFF⟩,
  ⟨"GF8.ADD", 0x10000000, 0xFF000FFF⟩,
  ⟨"GF8.MUL", 0x11000000, 0xFF000FFF⟩,
  ⟨"GF8.INV", 0x12000000, 0xFF00FFFF⟩,
  ⟨"GF8.POW", 0x13000000, 0xFF000FFF⟩,
  ⟨"GF8.EXP", 0x14000000, 0xFF00FFFF⟩,
  ⟨"GF8.LOG", 0x15000000, 0xFF00FFFF⟩,
  ⟨"GF10.ADD", 0x20000000, 0xFF000FFF⟩,
  ⟨"GF10.MUL", 0x21000000, 0xFF000FFF⟩,
  ⟨"GF10.INV", 0x22000000, 0xFF00FFFF⟩,
  ⟨"GF10.POW", 0x23000000, 0xFF000FFF⟩,
  ⟨"SSS.INTERP", 0x30000000, 0xFFFFFFFF⟩,
  ⟨"SSS.DIGEST", 0x31000000, 0xFF0FFFFF⟩,
  ⟨"SSS.SPLIT", 0x32000000, 0xFFFFFFFF⟩,
  ⟨"SSS.RECON", 0x33000000, 0xFFFFFFFF⟩,
  ⟨"FST.ROUND", 0x40000000, 0xFFFFFF00⟩,
  ⟨"FST.ENC", 0x41000000, 0xFFFFFFFF⟩,
  ⟨"FST.DEC", 0x42000000, 0xFFFFFFFF⟩,
  ⟨"RS.POLYMOD", 0x50000000, 0xFF0FFFFF⟩,
  ⟨"RS.CREATE", 0x51000000, 0xFF0FFFFE⟩,
  ⟨"RS.VERIFY", 0x52000000, 0xFF0FFFFE⟩,
  ⟨"CODEC.ENC", 0x60000000, 0xFF0FFFFF⟩,
  ⟨"CODEC.DEC", 0x61000000, 0xFFFFFFFF⟩]

/-- The command's mnemonic (30_encoding.md R108). -/
def Instr.mnemonic (i : Instr) : String :=
  match i with
  | .nop => "NOP"
  | .li _ _ => "LI"
  | .lih _ _ => "LIH"
  | .mov _ _ => "MOV"
  | .ldb _ _ _ => "LDB"
  | .stb _ _ _ => "STB"
  | .ldh _ _ _ => "LDH"
  | .sth _ _ _ => "STH"
  | .wipe => "WIPE"
  | .gf8Add _ _ _ => "GF8.ADD"
  | .gf8Mul _ _ _ => "GF8.MUL"
  | .gf8Inv _ _ => "GF8.INV"
  | .gf8Pow _ _ _ => "GF8.POW"
  | .gf8Exp _ _ => "GF8.EXP"
  | .gf8Log _ _ => "GF8.LOG"
  | .gf10Add _ _ _ => "GF10.ADD"
  | .gf10Mul _ _ _ => "GF10.MUL"
  | .gf10Inv _ _ => "GF10.INV"
  | .gf10Pow _ _ _ => "GF10.POW"
  | .sssInterp => "SSS.INTERP"
  | .sssDigest _ => "SSS.DIGEST"
  | .sssSplit => "SSS.SPLIT"
  | .sssRecon => "SSS.RECON"
  | .fstRound _ => "FST.ROUND"
  | .fstEnc => "FST.ENC"
  | .fstDec => "FST.DEC"
  | .rsPolymod _ => "RS.POLYMOD"
  | .rsCreate _ _ => "RS.CREATE"
  | .rsVerify _ _ => "RS.VERIFY"
  | .codecEnc _ => "CODEC.ENC"
  | .codecDec => "CODEC.DEC"

/-- The instruction the decoder reads from an opcode-table word of nbits bits: a command is one 32-bit
word (30_encoding.md R100), written to CMD as one value, so bit 0 of w is bit 0 of the command. -/
def decodeTableWord (nbits w : Nat) : Option Instr :=
  (decode (BitVec.ofNat 32 (w % 2 ^ nbits))).toOption

end Sys2Proof
end

