-- ==== Sys2Proof/Machine/HostBus.lean ====
section
/-! DEFINITION. The host's side: the MMIO map (20_memory.md R77), bus reads and writes with their side
effects (10_state.md R37 to R44, 20_memory.md R78), the BUSY hazard (70_reset_and_hazards.md R350),
and both resets (70_reset_and_hazards.md R340, R342). -/

namespace Sys2Proof.Machine

/-- What an aligned offset of the window names (20_memory.md R77). -/
inductive Target where
  | id
  | ctrl
  | status
  | errInfo
  | cmd
  | bufSize
  /-- The register window, offset 0x040 + 4i. -/
  | reg (i : Reg)
  /-- The BUF window, offset 0x1000 + a: the four bytes from BUF address a on. -/
  | bufWord (a : Nat)
  /-- An unassigned offset inside the window (10_state.md R44). -/
  | reserved
  deriving DecidableEq, Repr

/-- The address map of the window's aligned offsets (20_memory.md R77). -/
def targetOf (offset : Nat) : Target :=
  if offset = 0x000 then .id
  else if offset = 0x004 then .ctrl
  else if offset = 0x008 then .status
  else if offset = 0x00C then .errInfo
  else if offset = 0x010 then .cmd
  else if offset = 0x014 then .bufSize
  else if 0x040 ≤ offset ∧ offset ≤ 0x07C then .reg (Fin.ofNat 16 ((offset - 0x040) / 4))
  else if 0x1000 ≤ offset then .bufWord (offset - 0x1000)
  else .reserved

/-- Hand out the n-th free read value, n = freeCount (70_reset_and_hazards.md R350; log 5). -/
def State.returnFree (s : State) : State :=
  { s with readData := some (Config.busyRead s.freeCount), freeCount := s.freeCount + 1 }

/-- A host read that returns v; no read has a side effect on the core (20_memory.md R76). -/
def State.returnWord (s : State) (v : Word) : State := { s with readData := some v }

/-- A host read of a target (20_memory.md R77). While BUSY = 1 a read of G or BUF returns a free value
(70_reset_and_hazards.md R350). -/
def State.readTarget (s : State) (t : Target) : State :=
  match t with
  | .id => s.returnWord Config.idValue
  | .ctrl => s.returnWord s.ctrlWord
  | .status => s.returnWord s.statusWord
  | .errInfo => s.returnWord s.errInfo
  | .cmd => s.returnWord 0
  | .bufSize => s.returnWord (BitVec.ofNat 32 s.bufSize)
  | .reg i => if s.busy then s.returnFree else s.returnWord (s.g.read i)
  | .bufWord a => if s.busy then s.returnFree else s.returnWord (s.buf.readWord a)
  | .reserved => s.returnWord 0

/-- The entropy bytes the pending command draws when it completes (42_shamir.md R192). -/
def State.pendingDraws (s : State) : Nat :=
  match s.pending with
  | none => 0
  | some p =>
    match decode p.word with
    | .ok .sssSplit => (splitRule s.entropyAhead s.bufSize p.snapshot).draws
    | _ => 0

/-- The entropy a command abandoned by a reset had already drawn is lost: some number of bytes between
0 and what it draws, which the spec leaves open (70_reset_and_hazards.md R342; log 6). -/
def State.loseAbandonedDraws (s : State) : State :=
  if s.pendingDraws = 0 then s
  else
    let lost := Config.abandonedDraws s.freeCount % (s.pendingDraws + 1)
    { s.drawEntropy lost with freeCount := s.freeCount + 1 }

/-- Reset by either event: at once, whether or not BUSY = 1 (70_reset_and_hazards.md R340, R342). -/
def State.resetNow (s : State) : State := s.loseAbandonedDraws.resetCore

/-- A host write to CTRL: SRST = 1 resets and the other bits are ignored; SRST = 0 writes IE
(10_state.md R40, 70_reset_and_hazards.md R342). -/
def State.writeCtrl (s : State) (v : Word) : State :=
  if v.getLsbD 1 then s.resetNow else { s with ie := v.getLsbD 0 }

/-- A host write to a target (20_memory.md R77). While BUSY = 1 a write of CMD, G or BUF is dropped and
sets OVR (70_reset_and_hazards.md R350). -/
def State.writeTarget (s : State) (t : Target) (v : Word) : State :=
  match t with
  | .id => s
  | .ctrl => s.writeCtrl v
  | .status => s.writeStatus v
  | .errInfo => s
  | .cmd => if s.busy then s.setOvr else s.accept v
  | .bufSize => s
  | .reg i => if s.busy then s.setOvr else { s with g := s.g.write i v }
  | .bufWord a => if s.busy then s.setOvr else { s with buf := s.buf.writeBytes a (bytesOfWord v) }
  | .reserved => s

/-- A host access of `bytes` bytes at an offset from CORE_BASE: it must be 32-bit and naturally
aligned, and inside the window (20_memory.md R74, R77). -/
def hostAccess (s : State) (offset bytes : Nat) (effect : Target → State) :
    Host.Outcome State Fault Refusal :=
  if bytes ≠ 4 then .refused .hostAccessWidth
  else if offset % 4 ≠ 0 then .refused .hostAccessUnaligned
  else if 0x1000 + s.bufSize ≤ offset then .fault .offsetOutsideWindow
  else .next (effect (targetOf offset))

end Sys2Proof.Machine
end

