-- ==== Sys2Proof/Machine/Engine.lean ====
section
/-! DEFINITION. The engine's execution of the pending command (60_exceptions.md R301, R305), and how
the core takes one event after another (60_exceptions.md R316, 20_memory.md R82). -/

namespace Sys2Proof.Machine

/-- Run the pending command word: decode it, then execute and complete; an illegal word completes with
ILLEGAL_COMMAND and ERRINFO = the word (60_exceptions.md R301, 30_encoding.md R109). -/
def runWord (w : Word) (s : State) : Host.Outcome State Fault Refusal :=
  match decode w with
  | .ok i => exec i s
  | .error _ => .next (s.takeError .illegalCommand w)

/-- The engine moves: it completes the pending command; with none pending the core is idle and all
state is kept (60_exceptions.md R301, R336). -/
def engineMove (s : State) : Host.Outcome State Fault Refusal :=
  match s.pending with
  | some p => runWord p.word s
  | none => .next s

/-- One event takes effect atomically (20_memory.md R82). -/
def takeEvent (e : Event) (s : State) : Host.Outcome State Fault Refusal :=
  match e with
  | .hostRead offset bytes => hostAccess s offset bytes s.readTarget
  | .hostWrite offset bytes v => hostAccess s offset bytes fun t => s.writeTarget t v
  | .engineMoves => engineMove s
  | .hardReset => .next s.resetNow

/-- The next atomic step: the first event to come; when none is to come the engine moves, so every
accepted command completes (60_exceptions.md R316, 70_reset_and_hazards.md R360; log 2, log 3). -/
def nextStep (s : State) : Host.Outcome State Fault Refusal :=
  match s.inputs with
  | [] => engineMove s
  | e :: rest => takeEvent e { s with inputs := rest }

/-- The word w is accepted as a command and the engine moves next, before anything else to come: what a
host write of w to CMD leads to (60_exceptions.md R300, 10_state.md R37; log 9). -/
def State.placeCommand (s : State) (w : Word) : State :=
  { s.accept w with inputs := .engineMoves :: s.inputs }

end Sys2Proof.Machine
end

