-- ==== Sys2Proof/Machine/Step.lean ====
section
/-! DEFINITION. One step of the core, and the placing of a command where the next step runs it. -/

namespace Sys2Proof.Machine

/-- One step: the next atomic event takes effect (60_exceptions.md R316). -/
def step (s : State) : Host.Outcome State Fault Refusal := nextStep s

/-- The command whose bits are w (nbits bits of the table, the rest 0), accepted so that the very next
step executes it. The core fetches nothing: a command comes from a write of CMD (10_state.md R36;
log 9). -/
def State.withFetchWord (s : State) (nbits w : Nat) : State :=
  s.placeCommand (BitVec.ofNat 32 (w % 2 ^ nbits))

end Sys2Proof.Machine
end

