-- ==== Sys2Proof/Machine/Pseudo.lean ====
section
/-! DEFINITION. The expansions of the pseudo-instructions (30_encoding.md R113). -/

namespace Sys2Proof.Machine

/-- The commands a pseudo-instruction stands for; none where R113's condition fails, the division
with d = a, whose INV would overwrite Ga (30_encoding.md R113; log 14). `runGroups` issues them and stops
at the first that ends in error. -/
def expandPseudo (p : Pseudo) : Option (List Instr) :=
  match p with
  | .gf8Sub rd a b => some [.gf8Add rd a b]
  | .gf10Sub rd a b => some [.gf10Add rd a b]
  | .gf8Sqr rd a => some [.gf8Mul rd a a]
  | .gf10Sqr rd a => some [.gf10Mul rd a a]
  | .gf8Div rd a b => if rd = a then none else some [.gf8Inv rd b, .gf8Mul rd a rd]
  | .gf10Div rd a b => if rd = a then none else some [.gf10Inv rd b, .gf10Mul rd a rd]
  | .clr rd => some [.li rd 0]
  | .li32 rd v =>
    let hi := (v.extractLsb' 16 16).toNat
    let lo := (v.extractLsb' 0 16).toNat
    some (if hi = 0 then [.li rd lo] else [.li rd lo, .lih rd hi])

end Sys2Proof.Machine
end

