-- ==== Sys2Proof/Machine/HostProgram.lean ====
section
/-! DEFINITION. Host programs in the notation of 30_encoding.md R112, run over the core's step, and the
end of a run with its observation (70_reset_and_hazards.md R356). The host is not part of the core: this
file holds its side of the bus, for the programs of 95_test_vectors.md. -/

namespace Sys2Proof.Machine

/-- One line of a host program (30_encoding.md R112; `CMD w` is 95_test_vectors.md P4's). A label is
the number of the line it stands before. -/
inductive HostLine where
  /-- SETG Gi, v -/
  | setG (r : Reg) (v : Word)
  /-- GETG Gi -/
  | getG (r : Reg)
  /-- BUFW a: bytes, in fours -/
  | bufW (a : Nat) (bytes : List Byte)
  /-- BUFR a, m -/
  | bufR (a m : Nat)
  /-- A command line, or CMD w: the word is written and STATUS polled until BUSY = 0. -/
  | command (w : Word)
  /-- A pseudo-instruction line, issued as its expansion (30_encoding.md R113). -/
  | pseudo (p : Pseudo)
  /-- CLRST -/
  | clearStatus
  /-- IF ERR GOTO label, on the last STATUS read -/
  | ifErr (label : Nat)
  /-- IF Gi = v GOTO label, on the last GETG of Gi -/
  | ifReg (r : Reg) (v : Word) (label : Nat)
  /-- GOTO label -/
  | goto (label : Nat)
  deriving DecidableEq, Repr

/-! ### The end of a run -/

/-- The observation of a run: G, BUF, STATUS, ERRINFO and CTRL (70_reset_and_hazards.md R356). -/
structure Observation where
  g : Regs
  buf : Memory
  status : Word
  errInfo : Word
  ctrl : Word
  deriving DecidableEq, Repr

/-- What a run that ends in this state observes (70_reset_and_hazards.md R356). -/
def State.observe (s : State) : Observation where
  g := s.g
  buf := s.buf
  status := s.statusWord
  errInfo := s.errInfo
  ctrl := s.ctrlWord

/-- The bus as a run sees it: the core, what the reads returned, and the observation at the STATUS read
with BUSY = 0 after the last CMD written so far; none while the host still has to make that read
(70_reset_and_hazards.md R356). -/
structure BusRun where
  core : State
  reads : List Word
  /-- A CMD has been written and no STATUS read with BUSY = 0 has followed. -/
  waiting : Bool
  observed : Option Observation
  deriving DecidableEq, Repr

/-- The event is a host write of CMD (10_state.md R37). -/
def Event.writesCmd (e : Event) : Bool :=
  match e with
  | .hostRead _ _ => false
  | .hostWrite offset _ _ => offset == 0x010
  | .engineMoves => false
  | .hardReset => false

/-- The event is a host read of STATUS (10_state.md R39). -/
def Event.readsStatus (e : Event) : Bool :=
  match e with
  | .hostRead offset _ => offset == 0x008
  | .hostWrite _ _ _ => false
  | .engineMoves => false
  | .hardReset => false

/-- What the event's read returned, s being the core after it. -/
def Event.returned (e : Event) (s : State) : List Word :=
  match e with
  | .hostRead _ _ => s.readData.toList
  | .hostWrite _ _ _ => []
  | .engineMoves => []
  | .hardReset => []

/-- The run after event e, which took the core to s: a write of CMD begins a wait, and the first STATUS
read with BUSY = 0 ends it and is where the run observes (70_reset_and_hazards.md R352, R356). -/
def BusRun.after (b : BusRun) (e : Event) (s : State) : BusRun :=
  let reads := b.reads ++ e.returned s
  if e.writesCmd then { core := s, reads := reads, waiting := true, observed := none }
  else if b.waiting && e.readsStatus && !s.busy then
    { core := s, reads := reads, waiting := false, observed := some s.observe }
  else { b with core := s, reads := reads }

/-- The core takes the events one by one. -/
def runEvents (es : List Event) (b : BusRun) : Host.Outcome BusRun Fault Refusal :=
  match es with
  | [] => .next b
  | e :: rest =>
    match step { b.core with inputs := e :: b.core.inputs } with
    | .next s => runEvents rest (b.after e s)
    | .fault r => .fault r
    | .refused r => .refused r

/-! ### Lines -/

/-- The host between two lines: where it stands, its last STATUS read, its last GETG of each register,
what its BUFR lines showed, and the bus. -/
structure HostRun where
  line : Nat
  status : Word
  got : Regs
  shown : List Word
  bus : BusRun
  deriving DecidableEq, Repr

/-- The accesses of BUFW from BUF address a on, four bytes at a time (30_encoding.md R112). -/
def bufWrites (a : Nat) (bytes : List Byte) : List Event :=
  match bytes with
  | b0 :: b1 :: b2 :: b3 :: rest =>
    .hostWrite (0x1000 + a) 4 (wordOfBytes b0 b1 b2 b3) :: bufWrites (a + 4) rest
  | _ => []

/-- The accesses of BUFR: the aligned words that cover BUF[a .. a+m) (30_encoding.md R112). -/
def bufReads (a m : Nat) : List Event :=
  (List.range ((a + m + 3) / 4 - a / 4)).map fun k => .hostRead (0x1000 + 4 * (a / 4 + k)) 4

/-- The bus events of issuing one command word; it completes before the host's STATUS read, since the
latency is not visible in the outcome (30_encoding.md R112, 00_scope.md R16; log 3). -/
def commandEvents (w : Word) : List Event := [.hostWrite 0x010 4 w, .engineMoves, .hostRead 0x008 4]

/-- The bus events of a line, in groups: a pseudo-instruction has one group for each command it stands
for, and none where it has no expansion (log 14); every other line is one group (30_encoding.md R112,
R113). -/
def HostLine.groups (l : HostLine) : List (List Event) :=
  match l with
  | .setG r v => [[.hostWrite (0x040 + 4 * r.val) 4 v]]
  | .getG r => [[.hostRead (0x040 + 4 * r.val) 4]]
  | .bufW a bytes => [bufWrites a bytes]
  | .bufR a m => [bufReads a m]
  | .command w => [commandEvents w]
  | .pseudo p => ((expandPseudo p).getD []).map fun i => commandEvents (encode i)
  | .clearStatus => [[.hostWrite 0x008 4 0x0000000E]]
  | .ifErr _ => [[]]
  | .ifReg _ _ _ => [[]]
  | .goto _ => [[]]

/-- The bus's last read showed STATUS.ERR = 1, that read being one of STATUS (10_state.md R39). -/
def BusRun.sawErr (b : BusRun) : Bool := (b.reads.getLastD 0).getLsbD 2

/-- The groups of a line, one after another; a group is issued only when the STATUS read that ended the
one before it showed no error: "Gb = 0 raises ZERO_ELEMENT at the INV, and the MUL is not issued"
(30_encoding.md R113). -/
def runGroups (gs : List (List Event)) (b : BusRun) : Host.Outcome BusRun Fault Refusal :=
  match gs with
  | [] => .next b
  | [g] => runEvents g b
  | g :: rest =>
    match runEvents g b with
    | .next b1 => if b1.sawErr then .next b1 else runGroups rest b1
    | .fault r => .fault r
    | .refused r => .refused r

/-- What the host keeps of a line's reads, and which line comes next; b is the bus after the line
(30_encoding.md R112). -/
def HostRun.after (h : HostRun) (l : HostLine) (b : BusRun) : HostRun :=
  let next := { h with line := h.line + 1, bus := b }
  match l with
  | .getG r => { next with got := h.got.write r (b.reads.headD 0) }
  | .bufR _ _ => { next with shown := h.shown ++ b.reads }
  | .command _ => { next with status := b.reads.getLastD h.status }
  | .pseudo _ => { next with status := b.reads.getLastD h.status }
  | .ifErr label => if h.status.getLsbD 2 then { next with line := label } else next
  | .ifReg r v label => if h.got.read r = v then { next with line := label } else next
  | .goto label => { next with line := label }
  | .setG _ _ => next
  | .bufW _ _ => next
  | .clearStatus => next

/-- Whether a run is over (70_reset_and_hazards.md R356). -/
inductive RunEnd where
  /-- The host writes no further CMD, and has read STATUS with BUSY = 0 after its last: the observation
  at that read, and the host after its last line, whose later lines the observation does not show. -/
  | over (seen : Observation) (h : HostRun)
  /-- Lines are left, or no CMD was written, or the read after the last CMD is still to come. -/
  | notOver (h : HostRun)
  deriving DecidableEq, Repr

/-- The end of a host that has no line left (70_reset_and_hazards.md R356). -/
def HostRun.finish (h : HostRun) : RunEnd :=
  match h.bus.observed with
  | some seen => .over seen h
  | none => .notOver h

/-- Run a host program for at most `fuel` lines; past its last line the host writes no further CMD
(30_encoding.md R112, 70_reset_and_hazards.md R356). -/
def runHost (fuel : Nat) (prog : List HostLine) (h : HostRun) : Host.Outcome RunEnd Fault Refusal :=
  match fuel with
  | 0 =>
    match prog[h.line]? with
    | none => .next h.finish
    | some _ => .next (.notOver h)
  | fuel + 1 =>
    match prog[h.line]? with
    | none => .next h.finish
    | some l =>
      match runGroups l.groups { h.bus with reads := [] } with
      | .next b => runHost fuel prog (h.after l b)
      | .fault r => .fault r
      | .refused r => .refused r

/-- A host at its first line, on a core in state s. DESIGN CHOICE (log 18): before any STATUS read IF ERR
tests 0, and before any GETG of Gi IF Gi tests 0; R112 speaks only of the last read. -/
def HostRun.start (s : State) : HostRun where
  line := 0
  status := 0
  got := Vector.replicate 16 0
  shown := []
  bus := { core := s, reads := [], waiting := false, observed := none }

end Sys2Proof.Machine
end

