-- ==== Sys2Proof/Safety.lean ====
section
/-! DEFINITION. What the claims speak of: the invariant of the reachable states, what a completion
changes and leaves alone, and the BUF regions each command checks. -/

namespace Sys2Proof.Machine

/-! ### The invariant -/

/-- A code some rule raises: 0x01 to 0x08 and 0x10 to 0x14 (60_exceptions.md R310). -/
def legalErrCode (c : BitVec 8) : Bool :=
  (1 ≤ c.toNat && c.toNat ≤ 8) || (0x10 ≤ c.toNat && c.toNat ≤ 0x14)

/-- What holds of every state the core can be in between two atomic steps. -/
structure State.Inv (s : State) : Prop where
  /-- BUF is in its canonical form. -/
  bufCanonical : s.buf.wf = true
  /-- BUF has BUF_SIZE bytes (10_state.md R38). -/
  bufInRange : s.buf.below s.bufSize = true
  /-- BUF_SIZE is a legal value (00_scope.md R9). -/
  sizeLegal : Config.bufSizeLegal s.bufSize = true
  /-- BUSY is 1 from acceptance to completion (10_state.md R39). -/
  busyIffPending : s.busy = s.pending.isSome
  /-- BUSY = 1 implies DONE = 0, ERR = 0 and ERRCODE = 0 (10_state.md R39). -/
  busyFlags : s.busy = true → s.done = false ∧ s.err = false ∧ s.errCode = 0
  /-- The snapshot is what G and BUF still hold (10_state.md R49). -/
  snapshotCurrent : ∀ p, s.pending = some p → p.snapshot = ⟨s.g, s.buf⟩
  /-- Without ERR there is no error record (10_state.md R39, R41). -/
  noErrNoRecord : s.err = false → s.errCode = 0 ∧ s.errInfo = 0
  /-- With ERR the code is one a rule raises (60_exceptions.md R310). -/
  errCodeLegal : s.err = true → legalErrCode s.errCode = true
  /-- Scratch is zero (10_state.md R48). -/
  scratchZero : s.scratch = []

/-! ### What a completion leaves alone -/

/-- STATUS.OVR, CTRL, BUF_SIZE and the model's own bus fields are as they were. -/
structure State.HostSideKept (s t : State) : Prop where
  ovr : t.ovr = s.ovr
  ie : t.ie = s.ie
  bufSize : t.bufSize = s.bufSize
  inputs : t.inputs = s.inputs
  readData : t.readData = s.readData
  freeCount : t.freeCount = s.freeCount

/-- The entropy port is where it was. -/
structure State.EntropyKept (s t : State) : Prop where
  pos : t.entropyPos = s.entropyPos
  injected : t.entropyIn = s.entropyIn

/-- The flags, scratch and pending command after a completion without error (60_exceptions.md R305). -/
structure State.CompletedOk (s t : State) : Prop where
  busy : t.busy = false
  done : t.done = true
  err : t.err = false
  errCode : t.errCode = 0
  errInfo : t.errInfo = 0
  pending : t.pending = none
  scratch : t.scratch = []
  hostSide : s.HostSideKept t

/-- A completion with error: the record, and nothing else of the architectural state changed
(60_exceptions.md R305, R306). -/
structure State.CompletedErr (s t : State) (c : ErrCode) (info : Word) : Prop where
  busy : t.busy = false
  done : t.done = true
  err : t.err = true
  errCode : t.errCode = c.code
  errInfo : t.errInfo = info
  pending : t.pending = none
  scratch : t.scratch = []
  g : t.g = s.g
  buf : t.buf = s.buf
  entropy : s.EntropyKept t
  hostSide : s.HostSideKept t

/-- Command i in state s reports the first check of the list that fires, with its code and ERRINFO, and
changes nothing else (60_exceptions.md R303, R306). Each entry says whether the check fires, and what it
raises. -/
def State.RaisesFirst (s : State) (i : Instr) (checks : List (Bool × ErrCode × Nat)) : Prop :=
  ∀ fires code info, checks.find? (·.1) = some (fires, code, info) →
    ∃ t, exec i s = .next t ∧ s.CompletedErr t code (BitVec.ofNat 32 info)

/-- After t, the registers of the list hold the listed values and every other register is as in s. -/
def State.RegsWritten (s t : State) (regs : List (Reg × Word)) : Prop :=
  (∀ w ∈ regs, t.g.read w.1 = w.2) ∧ ∀ r, r ∉ regs.map (·.1) → t.g.read r = s.g.read r

/-- After t, BUF holds the string bs from address a on and every byte outside it is as in s. -/
def State.BufWritten (s t : State) (a : Nat) (bs : List Byte) : Prop :=
  t.buf.readBytes a bs.length = bs ∧
    ∀ b, b < a ∨ a + bs.length ≤ b → t.buf.read b = s.buf.read b

/-- Every byte of BUF is as in s. -/
def State.BufKept (s t : State) : Prop := ∀ b, t.buf.read b = s.buf.read b

/-- A completion without error that writes exactly the listed registers and the string bs at BUF
address a, and draws no entropy. -/
structure State.CompletesWith (s t : State) (regs : List (Reg × Word)) (a : Nat) (bs : List Byte) :
    Prop where
  completed : s.CompletedOk t
  regs : s.RegsWritten t regs
  buf : s.BufWritten t a bs
  entropy : s.EntropyKept t

/-- A completion without error that writes exactly the listed registers. -/
structure State.CompletesWithRegs (s t : State) (regs : List (Reg × Word)) : Prop where
  completed : s.CompletedOk t
  regs : s.RegsWritten t regs
  buf : s.BufKept t
  entropy : s.EntropyKept t

/-- All of the architectural state (10_state.md R50) and scratch are as they were; the model's own bus
fields may differ. -/
structure State.ArchKept (s t : State) : Prop where
  g : t.g = s.g
  buf : t.buf = s.buf
  busy : t.busy = s.busy
  done : t.done = s.done
  err : t.err = s.err
  ovr : t.ovr = s.ovr
  errCode : t.errCode = s.errCode
  errInfo : t.errInfo = s.errInfo
  ie : t.ie = s.ie
  pending : t.pending = s.pending
  scratch : t.scratch = s.scratch
  bufSize : t.bufSize = s.bufSize
  entropy : s.EntropyKept t

/-! ### Regions -/

/-- The region is in range (20_memory.md R75). -/
abbrev RegionOk (size : Nat) (r : Nat × Nat) : Prop := r.2 = 0 ∨ r.1 + r.2 ≤ size

/-- The BUF regions a command checks before anything else, in the order its rule lists them
(20_memory.md R75). CODEC.DEC's output region comes later (45_codec.md R258). -/
def regionsOf (i : Instr) (v : Snapshot) : List (Nat × Nat) :=
  match i with
  | .nop => []
  | .li _ _ => []
  | .lih _ _ => []
  | .mov _ _ => []
  | .ldb _ rs1 off => [(effAddr v rs1 off, 1)]
  | .stb rs1 _ off => [(effAddr v rs1 off, 1)]
  | .ldh _ rs1 off => [(effAddr v rs1 off, 2)]
  | .sth rs1 _ off => [(effAddr v rs1 off, 2)]
  | .wipe => [(v.regNat 1, v.regNat 2)]
  | .gf8Add _ _ _ => []
  | .gf8Mul _ _ _ => []
  | .gf8Inv _ _ => []
  | .gf8Pow _ _ _ => []
  | .gf8Exp _ _ => []
  | .gf8Log _ _ => []
  | .gf10Add _ _ _ => []
  | .gf10Mul _ _ _ => []
  | .gf10Inv _ _ => []
  | .gf10Pow _ _ _ => []
  | .sssInterp => [(v.regNat 1, v.regNat 2 * (1 + v.regNat 3)), (v.regNat 5, v.regNat 3)]
  | .sssDigest _ => [(v.regNat 1, v.regNat 2), (v.regNat 3, v.regNat 4)]
  | .sssSplit =>
    [(v.regNat 1, v.regNat 2), (v.regNat 5, v.regNat 4),
     (v.regNat 6, v.regNat 4 * (1 + v.regNat 2))]
  | .sssRecon => [(v.regNat 1, v.regNat 2 * (1 + v.regNat 3)), (v.regNat 5, v.regNat 3)]
  | .fstRound _ => [(v.regNat 1, v.regNat 2), (v.regNat 3, v.regNat 4), (v.regNat 8, v.regNat 2)]
  | .fstEnc => [(v.regNat 1, v.regNat 2), (v.regNat 3, v.regNat 4), (v.regNat 8, v.regNat 2)]
  | .fstDec => [(v.regNat 1, v.regNat 2), (v.regNat 3, v.regNat 4), (v.regNat 8, v.regNat 2)]
  | .rsPolymod _ => [(v.regNat 1, 2 * v.regNat 2)]
  | .rsCreate _ _ => [(v.regNat 1, 2 * v.regNat 2), (v.regNat 3, 6)]
  | .rsVerify _ _ => [(v.regNat 1, 2 * v.regNat 2)]
  | .codecEnc _ =>
    [(v.regNat 9, v.regNat 10), (v.regNat 11, 2 * (7 + payloadCount (v.regNat 10)))]
  | .codecDec => [(v.regNat 1, 2 * v.regNat 2)]

/-- Every region the command lists is in range. -/
abbrev RegionsOk (i : Instr) (s : State) : Prop := ∀ r ∈ regionsOf i s.view, RegionOk s.bufSize r

/-! ### Reference forms of the field operations -/

/-- a multiplied by itself n times in GF(2^8), 1 for n = 0 (40_gf256.md R130). -/
def gf8PowTimes (a : Byte) : Nat → Byte
  | 0 => 1
  | n + 1 => gf8MulPoly (gf8PowTimes a n) a

/-- a multiplied by itself n times in GF(2^10), 1 for n = 0 (41_gf1024.md R160). -/
def gf10PowTimes (a : Word10) : Nat → Word10
  | 0 => 1
  | n + 1 => gf10MulPoly (gf10PowTimes a n) a

end Sys2Proof.Machine
end

