-- ==== Sys2Proof/Certificates/Slice0/Obligations.lean ====
section
/-! DEFINITION. The statements for the provers, from the numbered rules of the spec. Registers and BUF
as a command reads them are those of its snapshot, `s.view` (10_state.md R49). -/

open Sys2Proof Sys2Proof.Machine

/-! ### Encoding -/

/-- Words of 95_test_vectors.md section 2.1 decode as listed there. -/
def Obligations.ListedWordsDecodeAsListed : Prop :=
  decode 0x00000000 = .ok .nop ∧ decode 0x0110BEEF = .ok (.li 1 0xBEEF) ∧
  decode 0x04210005 = .ok (.ldb 2 1 5) ∧ decode 0x05013002 = .ok (.stb 1 3 2) ∧
  decode 0x11312000 = .ok (.gf8Mul 3 1 2) ∧ decode 0x40000003 = .ok (.fstRound 3) ∧
  decode 0x51500001 = .ok (.rsCreate 5 true) ∧ decode 0x61000000 = .ok .codecDec ∧
  decode 0x00000001 = .error (.zeroFieldSet 0x00) ∧ decode 0x0111BEEF = .error (.zeroFieldSet 0x01) ∧
  decode 0x12211000 = .error (.zeroFieldSet 0x12) ∧ decode 0x40000103 = .error (.zeroFieldSet 0x40) ∧
  decode 0x16000000 = .error (.unassignedOpcode 0x16) ∧ decode 0xFF000000 = .error (.unassignedOpcode 0xFF)

/-- Decoding an encoded well-formed command gives it back, for every command and every operand
(30_encoding.md R101 to R108). -/
def Obligations.DecodeOfEncodeIsTheCommand : Prop :=
  ∀ i : Instr, WellFormed i → decode (encode i) = .ok i

/-- A word that decodes is the encoding of what it decodes to, which is well formed: each command has
one word (30_encoding.md R106, R109). -/
def Obligations.EncodeOfDecodeIsTheWord : Prop :=
  ∀ (w : Word) (i : Instr), decode w = .ok i → WellFormed i ∧ encode i = w

/-- A word decodes to the command of a row of R108 exactly when word AND mask = match. -/
def Obligations.DecodeFollowsMatchAndMask : Prop :=
  ∀ (w : Word) (row : OpcodeRow), row ∈ opcodeTable →
    (w &&& row.mask = row.pattern ↔ ∃ i, decode w = .ok i ∧ i.mnemonic = row.mnemonic)

/-- A pending word that fits no row of R108 completes with ILLEGAL_COMMAND and ERRINFO = the word, and
changes nothing else (30_encoding.md R106, R109), whether the engine's move is the first event to come or
none is to come. The event then comes off the list, the model's own list (log 2). -/
def Obligations.WordOfNoRowIsIllegal : Prop :=
  ∀ (s : State) (p : Pending), (s.inputs = [] ∨ ∃ rest, s.inputs = .engineMoves :: rest) →
    s.pending = some p → (∀ row ∈ opcodeTable, p.word &&& row.mask ≠ row.pattern) →
    ∃ t, step s = .next t ∧
      State.CompletedErr { s with inputs := s.inputs.tail } t .illegalCommand p.word

/-- When the pending word decodes to a command, the engine's step is that command's meaning
(60_exceptions.md R301). With an engine move first among the events to come, the step also takes that
event off the list, the model's own list (log 2). -/
def Obligations.StepRunsTheDecodedCommand : Prop :=
  ∀ (s : State) (p : Pending) (i : Instr), s.pending = some p → decode p.word = .ok i →
    (s.inputs = [] → step s = exec i s) ∧
    (∀ rest, s.inputs = .engineMoves :: rest → step s = exec i { s with inputs := rest })

/-- The step after withFetchWord runs the placed command on the state right after its acceptance
(log 9). -/
def Obligations.PlacedCommandRunsNext : Prop :=
  ∀ (s : State) (w : Word) (i : Instr), decode w = .ok i →
    step (s.withFetchWord 32 w.toNat) = exec i (s.accept w)

/-! ### Acceptance, completion, errors -/

/-- A host write of CMD while BUSY = 0 accepts the word, illegal or not; while BUSY = 1 it is no
acceptance (60_exceptions.md R300). The write then comes off the list of events, the model's own list
(log 2). -/
def Obligations.CmdWriteAcceptsWhenIdle : Prop :=
  ∀ (s : State) (w : Word) (rest : List Event), s.inputs = .hostWrite 0x010 4 w :: rest →
    (s.busy = false → ∃ t, step s = .next t ∧ t.pending = some ⟨w, ⟨s.g, s.buf⟩⟩ ∧
      t.busy = true ∧ t.done = false ∧ t.err = false ∧ t.errCode = 0 ∧ t.errInfo = 0 ∧
      t.ovr = s.ovr ∧ t.ie = s.ie ∧ t.irq = false ∧ t.g = s.g ∧ t.buf = s.buf ∧
      t.scratch = s.scratch ∧ t.bufSize = s.bufSize ∧ s.EntropyKept t ∧ t.inputs = rest) ∧
    (s.busy = true → ∃ t, step s = .next t ∧ t.pending = s.pending ∧ t.busy = true)

/-- Every command, in every state, completes: BUSY = 0, DONE = 1, no pending command, scratch zero,
IRQ = IE; without error there is no error record (60_exceptions.md R305, R315). -/
def Obligations.EveryCommandCompletes : Prop :=
  ∀ (i : Instr) (s : State), ∃ t, exec i s = .next t ∧ t.busy = false ∧ t.done = true ∧
    t.pending = none ∧ t.scratch = [] ∧ t.irq = s.ie ∧ s.HostSideKept t ∧
    (t.err = false → t.errCode = 0 ∧ t.errInfo = 0) ∧
    (t.err = true → legalErrCode t.errCode = true)

/-- A pending word whose execution ends in error, illegal or not, writes no register and no BUF byte,
draws no entropy, zeroes scratch, and changes nothing but BUSY, DONE, ERR, ERRCODE and ERRINFO besides
(60_exceptions.md R306), whether the engine's move is the first event to come or none is to come. The
event then comes off the list, the model's own list (log 2). -/
def Obligations.ErrorWritesOnlyTheRecord : Prop :=
  ∀ (s t : State) (p : Pending), (s.inputs = [] ∨ ∃ rest, s.inputs = .engineMoves :: rest) →
    s.pending = some p → step s = .next t → t.err = true →
    t.g = s.g ∧ t.buf = s.buf ∧ s.EntropyKept t ∧ t.scratch = [] ∧ t.busy = false ∧ t.done = true ∧
    t.pending = none ∧ State.HostSideKept { s with inputs := s.inputs.tail } t

/-- The first region a command lists that is out of range raises BUF_RANGE with its start mod 2^32,
before anything else (20_memory.md R75); CODEC.DEC's output region is checked after its length checks
(45_codec.md R258, 60_exceptions.md R303). -/
def Obligations.FirstRegionOutOfRangeIsReported : Prop :=
  ∀ (s : State),
    (∀ (i : Instr) (pre post : List (Nat × Nat)) (a m : Nat),
      regionsOf i s.view = pre ++ (a, m) :: post → (∀ r ∈ pre, RegionOk s.bufSize r) →
      ¬ RegionOk s.bufSize (a, m) →
      ∃ t, exec i s = .next t ∧ s.CompletedErr t .bufRange (BitVec.ofNat 32 a)) ∧
    (RegionsOk .codecDec s → 20 ≤ s.view.regNat 2 → decodedPad (s.view.regNat 2) ≤ 8 →
      ¬ RegionOk s.bufSize (s.view.regNat 3, decodedLength (s.view.regNat 2)) →
      ∃ t, exec .codecDec s = .next t ∧ s.CompletedErr t .bufRange (s.view.reg 3))

/-- Only SSS.SPLIT draws entropy; it draws either nothing or exactly (T-2)*n + (n-4) bytes, nothing on
an error or for T = 1 (42_shamir.md R192). -/
def Obligations.OnlySplitDrawsEntropy : Prop :=
  ∀ (i : Instr) (s t : State), exec i s = .next t →
    (i ≠ .sssSplit → s.EntropyKept t) ∧
    (i = .sssSplit → t.err = true ∨ s.view.regNat 3 = 1 → s.EntropyKept t) ∧
    (i = .sssSplit → t.err = false → 2 ≤ s.view.regNat 3 →
      let d := (s.view.regNat 3 - 2) * s.view.regNat 2 + (s.view.regNat 2 - 4)
      t.entropyPos = s.entropyPos + d ∧ t.entropyIn = s.entropyIn.drop d)

/-! ### Host interface, interrupt, reset -/

/-- IRQ is CTRL.IE AND STATUS.DONE in every state, and 0 after reset (10_state.md R45). -/
def Obligations.IrqIsEnableAndDone : Prop :=
  (∀ s : State, s.irq = true ↔ (s.ie = true ∧ s.done = true)) ∧ State.reset.irq = false

/-- A STATUS write clears DONE, ERR and OVR where the written bit is 1 and leaves them where it is 0;
clearing ERR clears ERRCODE and ERRINFO; nothing else changes, so BUSY and the reserved bits ignore
writes. A STATUS read shows BUSY, DONE, ERR, OVR in bits 0 to 3, ERRCODE in bits 15:8 and 0 elsewhere
(10_state.md R39). -/
def Obligations.StatusReadsAndClears : Prop :=
  ∀ (s : State) (v : Word) (rest : List Event),
    (s.inputs = .hostWrite 0x008 4 v :: rest → ∃ t, step s = .next t ∧
      t.done = (s.done && !v.getLsbD 1) ∧ t.err = (s.err && !v.getLsbD 2) ∧
      t.ovr = (s.ovr && !v.getLsbD 3) ∧
      (v.getLsbD 2 = true → t.errCode = 0 ∧ t.errInfo = 0) ∧
      (v.getLsbD 2 = false → t.errCode = s.errCode ∧ t.errInfo = s.errInfo) ∧
      t.g = s.g ∧ t.buf = s.buf ∧ t.busy = s.busy ∧ t.ie = s.ie ∧ t.pending = s.pending ∧
      t.scratch = s.scratch ∧ t.bufSize = s.bufSize ∧ s.EntropyKept t) ∧
    (s.inputs = .hostRead 0x008 4 :: rest → ∃ t w, step s = .next t ∧ t.readData = some w ∧
      s.ArchKept t ∧ w.getLsbD 0 = s.busy ∧ w.getLsbD 1 = s.done ∧ w.getLsbD 2 = s.err ∧
      w.getLsbD 3 = s.ovr ∧ w.extractLsb' 4 4 = 0 ∧ w.extractLsb' 8 8 = s.errCode ∧
      w.extractLsb' 16 16 = 0)

/-- While BUSY = 1, writes of CMD, G and BUF are dropped and set OVR; reads of G and BUF change no
state of the core, read some value, and CMD reads 0 (70_reset_and_hazards.md R350). -/
def Obligations.BusyDropsWritesAndFreesReads : Prop :=
  ∀ (s : State) (off : Nat) (v : Word) (rest : List Event), s.busy = true → off % 4 = 0 →
    (off = 0x010 ∨ (0x040 ≤ off ∧ off ≤ 0x07C) ∨ (0x1000 ≤ off ∧ off < 0x1000 + s.bufSize)) →
    (s.inputs = .hostWrite off 4 v :: rest →
      ∃ t, step s = .next t ∧ t.ovr = true ∧ State.ArchKept { s with ovr := true } t) ∧
    (s.inputs = .hostRead off 4 :: rest →
      ∃ t w, step s = .next t ∧ s.ArchKept t ∧ t.readData = some w ∧ (off = 0x010 → w = 0))

/-- While idle, the host reads back what it writes to a general register, and no other register
changes (10_state.md R31, 20_memory.md R77). -/
def Obligations.RegisterWindowReadsBack : Prop :=
  ∀ (s : State) (r : Reg) (v : Word) (rest : List Event), s.busy = false →
    s.inputs = .hostWrite (0x040 + 4 * r.val) 4 v :: .hostRead (0x040 + 4 * r.val) 4 :: rest →
    ∃ t u, step s = .next t ∧ step t = .next u ∧ s.RegsWritten t [(r, v)] ∧ t.buf = s.buf ∧
      u.readData = some v ∧ t.ArchKept u

/-- While idle, the BUF window is the big-endian word at its four bytes, for reads and writes; while
BUSY = 1 no write of it takes effect (20_memory.md R78). -/
def Obligations.BufWindowIsBigEndian : Prop :=
  ∀ (s : State) (k : Nat) (v : Word) (rest : List Event), s.buf.wf = true →
    Config.bufSizeLegal s.bufSize = true → k < s.bufSize / 4 →
    (s.busy = false → s.inputs = .hostRead (0x1000 + 4 * k) 4 :: rest →
      ∃ t w, step s = .next t ∧ s.ArchKept t ∧ t.readData = some w ∧
        w.toNat = (s.buf.read (4 * k)).toNat * 2 ^ 24 + (s.buf.read (4 * k + 1)).toNat * 2 ^ 16 +
          (s.buf.read (4 * k + 2)).toNat * 2 ^ 8 + (s.buf.read (4 * k + 3)).toNat) ∧
    (s.busy = false → s.inputs = .hostWrite (0x1000 + 4 * k) 4 v :: rest →
      ∃ t, step s = .next t ∧ t.g = s.g ∧ s.BufWritten t (4 * k)
        [v.extractLsb' 24 8, v.extractLsb' 16 8, v.extractLsb' 8 8, v.extractLsb' 0 8]) ∧
    (s.busy = true → s.inputs = .hostWrite (0x1000 + 4 * k) 4 v :: rest →
      ∃ t, step s = .next t ∧ t.buf = s.buf)

/-- ID, BUFSIZE, ERRINFO and CTRL read as the state has them, CMD and every unassigned offset of the
window read 0, a write of ID, BUFSIZE, ERRINFO or an unassigned offset is ignored, and none of these
reads or writes changes the core (10_state.md R37, R40 to R44). -/
def Obligations.ControlRegistersReadAndIgnoreWrites : Prop :=
  ∀ (s : State) (off : Nat) (v : Word) (rest : List Event), off % 4 = 0 →
    (s.inputs = .hostRead off 4 :: rest →
      (off = 0x000 → ∃ t, step s = .next t ∧ t.readData = some 0x47460007 ∧ s.ArchKept t) ∧
      (off = 0x004 → ∃ t, step s = .next t ∧
        t.readData = some (if s.ie then 1 else 0) ∧ s.ArchKept t) ∧
      (off = 0x00C → ∃ t, step s = .next t ∧ t.readData = some s.errInfo ∧ s.ArchKept t) ∧
      (off = 0x010 → ∃ t, step s = .next t ∧ t.readData = some 0 ∧ s.ArchKept t) ∧
      (off = 0x014 → ∃ t, step s = .next t ∧
        t.readData = some (BitVec.ofNat 32 s.bufSize) ∧ s.ArchKept t) ∧
      ((0x018 ≤ off ∧ off ≤ 0x03C) ∨ (0x080 ≤ off ∧ off ≤ 0xFFC) →
        ∃ t, step s = .next t ∧ t.readData = some 0 ∧ s.ArchKept t)) ∧
    (s.inputs = .hostWrite off 4 v :: rest →
      (off = 0x000 ∨ off = 0x00C ∨ off = 0x014 ∨ (0x018 ≤ off ∧ off ≤ 0x03C) ∨
        (0x080 ≤ off ∧ off ≤ 0xFFC)) →
      ∃ t, step s = .next t ∧ s.ArchKept t)

/-- A host access of another width, or of 32 bits at an unaligned offset, is refused by the model; an
aligned one beyond the window is none of the core's (20_memory.md R74, R77; log 8 names the stops). -/
def Obligations.AccessesOutsideTheSpecStop : Prop :=
  ∀ (s : State) (off bytes : Nat) (v : Word) (rest : List Event) (e : Event),
    (e = .hostRead off bytes ∨ e = .hostWrite off bytes v) → s.inputs = e :: rest →
    (bytes ≠ 4 → step s = .refused .hostAccessWidth) ∧
    (bytes = 4 → off % 4 ≠ 0 → step s = .refused .hostAccessUnaligned) ∧
    (bytes = 4 → off % 4 = 0 → 0x1000 + s.bufSize ≤ off → step s = .fault .offsetOutsideWindow)

/-- The reset state holds the values of R340: every register, flag and byte of BUF 0, nothing pending,
scratch zero, IRQ 0. -/
def Obligations.ResetStateHoldsTheResetValues : Prop :=
  (∀ r : Reg, State.reset.g.read r = 0) ∧ (∀ a, State.reset.buf.read a = 0) ∧
  State.reset.busy = false ∧ State.reset.done = false ∧ State.reset.err = false ∧
  State.reset.ovr = false ∧ State.reset.errCode = 0 ∧ State.reset.errInfo = 0 ∧
  State.reset.ie = false ∧ State.reset.irq = false ∧ State.reset.pending = none ∧
  State.reset.scratch = []

/-- A CTRL write with SRST = 1 resets at once, BUSY or not: the pending command is abandoned with none
of its writes, DONE and IRQ are 0, IE is 0 whatever the write's other bits, and at most the entropy the
abandoned command draws is lost. With SRST = 0 the write sets IE and nothing else
(70_reset_and_hazards.md R342). How much entropy is lost is a free value (log 6). -/
def Obligations.SoftResetAbandonsAndClears : Prop :=
  ∀ (s : State) (v : Word) (rest : List Event), s.inputs = .hostWrite 0x004 4 v :: rest →
    (v.getLsbD 1 = true → ∃ t, step s = .next t ∧ (∀ r : Reg, t.g.read r = 0) ∧
      (∀ a, t.buf.read a = 0) ∧ t.busy = false ∧ t.done = false ∧ t.err = false ∧ t.ovr = false ∧
      t.errCode = 0 ∧ t.errInfo = 0 ∧ t.ie = false ∧ t.irq = false ∧ t.pending = none ∧
      t.scratch = [] ∧ t.bufSize = s.bufSize ∧ s.entropyPos ≤ t.entropyPos ∧
      t.entropyPos ≤ s.entropyPos + s.pendingDraws) ∧
    (v.getLsbD 1 = false → ∃ t, step s = .next t ∧ t.ie = v.getLsbD 0 ∧
      State.ArchKept { s with ie := v.getLsbD 0 } t)

/-- Both kinds of reset set every piece of state to its reset value at once, whatever it was and whether
or not a command runs: G, BUF, STATUS, ERRINFO, CTRL.IE, IRQ, scratch, and the pending command, abandoned
with none of its writes. BUF_SIZE stays (70_reset_and_hazards.md R340, R341, R342). The entropy position
stays too, but for the bytes that an abandoned SSS.SPLIT had drawn, at most as many as it draws; how many
is a free value (log 6). -/
def Obligations.BothResetsSetEveryStateToItsResetValue : Prop :=
  ∀ (s : State) (e : Event) (v : Word) (rest : List Event), s.inputs = e :: rest →
    (e = .hardReset ∨ (e = .hostWrite 0x004 4 v ∧ v.getLsbD 1 = true)) →
    ∃ t, step s = .next t ∧ (∀ r : Reg, t.g.read r = 0) ∧ (∀ a, t.buf.read a = 0) ∧
      t.busy = false ∧ t.done = false ∧ t.err = false ∧ t.ovr = false ∧ t.errCode = 0 ∧
      t.errInfo = 0 ∧ t.ie = false ∧ t.irq = false ∧ t.pending = none ∧ t.scratch = [] ∧
      t.bufSize = s.bufSize ∧
      ((∀ p, s.pending = some p → decode p.word ≠ .ok .sssSplit) → s.EntropyKept t) ∧
      (∀ p, s.pending = some p →
        let n := p.snapshot.regNat 2
        let T := p.snapshot.regNat 3
        s.entropyPos ≤ t.entropyPos ∧ t.entropyPos ≤ s.entropyPos + ((T - 2) * n + (n - 4)) ∧
          t.entropyIn = s.entropyIn.drop (t.entropyPos - s.entropyPos))

/-- The invariant holds after reset (70_reset_and_hazards.md R340). BUF_SIZE there is the model's choice
(log 1). -/
def Obligations.InvariantHoldsAtReset : Prop := State.reset.Inv

/-- Every step keeps the invariant: BUF stays canonical and inside BUF_SIZE, BUSY tells a pending
command, a busy core shows no record, the snapshot is what the host still sees, an error code is one
that some rule raises, scratch is zero. -/
def Obligations.EveryStepKeepsTheInvariant : Prop :=
  ∀ s t : State, s.Inv → step s = .next t → t.Inv

/-- No host access during a command, short of a reset, changes what the command writes: the outcome
with the access before the completion is the outcome without it (10_state.md R49,
70_reset_and_hazards.md R350). -/
def Obligations.HostCannotChangeARunningCommand : Prop :=
  ∀ (s s1 : State) (p : Pending) (e : Event) (rest : List Event), s.busy = true →
    s.pending = some p →
    (∃ off n, e = .hostRead off n) ∨
      (∃ off n v, e = .hostWrite off n v ∧ ¬ (off = 0x004 ∧ v.getLsbD 1 = true)) →
    s.inputs = e :: .engineMoves :: rest → step s = .next s1 →
    ∃ t t1, step { s with inputs := .engineMoves :: rest } = .next t ∧ step s1 = .next t1 ∧
      t1.g = t.g ∧ t1.buf = t.buf ∧ t1.err = t.err ∧ t1.errCode = t.errCode ∧
      t1.errInfo = t.errInfo ∧ t1.entropyPos = t.entropyPos ∧ t1.entropyIn = t.entropyIn

/-! ### Moves, loads, stores, wipe -/

/-- NOP, LI, LIH and MOV complete in every state, with their results and nothing else written
(46_move_load_store.md R280, R284, R285, R286). -/
def Obligations.MovesCompleteAndWriteTheirRegister : Prop :=
  ∀ (s : State) (rd rs1 : Reg) (imm : BitVec 16),
    (∃ t, exec .nop s = .next t ∧ s.CompletesWithRegs t []) ∧
    (∃ t, exec (.li rd imm.toNat) s = .next t ∧ s.CompletesWithRegs t [(rd, imm.setWidth 32)]) ∧
    (∃ t v, exec (.lih rd imm.toNat) s = .next t ∧ s.CompletesWithRegs t [(rd, v)] ∧
      v.toNat = imm.toNat * 2 ^ 16 + (s.view.reg rd).toNat % 2 ^ 16) ∧
    (∃ t, exec (.mov rd rs1) s = .next t ∧ s.CompletesWithRegs t [(rd, s.view.reg rs1)])

/-- LDB and LDH at an address in range load the byte, or the big-endian halfword, zero-extended
(46_move_load_store.md R281, R287, R289). -/
def Obligations.LoadsReadTheirAddress : Prop :=
  ∀ (s : State) (rd rs1 : Reg) (off : BitVec 12),
    let ea := (s.view.reg rs1).toNat + off.toNat
    (ea + 1 ≤ s.bufSize → ∃ t v, exec (.ldb rd rs1 off.toNat) s = .next t ∧
      s.CompletesWithRegs t [(rd, v)] ∧ v.toNat = (s.view.buf.read ea).toNat) ∧
    (ea + 2 ≤ s.bufSize → ∃ t v, exec (.ldh rd rs1 off.toNat) s = .next t ∧
      s.CompletesWithRegs t [(rd, v)] ∧
      v.toNat = (s.view.buf.read ea).toNat * 2 ^ 8 + (s.view.buf.read (ea + 1)).toNat)

/-- STB and STH at an address in range store the low byte, or the low halfword big-endian, and leave
every other byte of BUF and every register alone (46_move_load_store.md R281, R288, R290). -/
def Obligations.StoresWriteTheirAddressOnly : Prop :=
  ∀ (s : State) (rs1 rs2 : Reg) (off : BitVec 12), s.buf.wf = true →
    let ea := (s.view.reg rs1).toNat + off.toNat
    let v := s.view.reg rs2
    (ea + 1 ≤ s.bufSize → ∃ t, exec (.stb rs1 rs2 off.toNat) s = .next t ∧
      s.CompletesWith t [] ea [v.extractLsb' 0 8]) ∧
    (ea + 2 ≤ s.bufSize → ∃ t, exec (.sth rs1 rs2 off.toNat) s = .next t ∧
      s.CompletesWith t [] ea [v.extractLsb' 8 8, v.extractLsb' 0 8])

/-- LDB, STB, LDH and STH out of range raise BUF_RANGE(ea mod 2^32) and write nothing; a halfword at
BUF_SIZE - 1 is out of range because its second byte is (46_move_load_store.md R281). -/
def Obligations.LoadsAndStoresOutOfRangeRaise : Prop :=
  ∀ (s : State) (rd rs1 rs2 : Reg) (off : BitVec 12),
    let ea := (s.view.reg rs1).toNat + off.toNat
    let info := BitVec.ofNat 32 (ea % 2 ^ 32)
    (s.bufSize < ea + 1 →
      (∃ t, exec (.ldb rd rs1 off.toNat) s = .next t ∧ s.CompletedErr t .bufRange info) ∧
      (∃ t, exec (.stb rs1 rs2 off.toNat) s = .next t ∧ s.CompletedErr t .bufRange info)) ∧
    (s.bufSize < ea + 2 →
      (∃ t, exec (.ldh rd rs1 off.toNat) s = .next t ∧ s.CompletedErr t .bufRange info) ∧
      (∃ t, exec (.sth rs1 rs2 off.toNat) s = .next t ∧ s.CompletedErr t .bufRange info))

/-- WIPE zeroes the m bytes from A on and nothing else, for every region in range; m = 0 is in range
at any A and changes nothing (46_move_load_store.md R291). -/
def Obligations.WipeZeroesItsRegionOnly : Prop :=
  ∀ s : State, s.buf.wf = true → RegionsOk .wipe s →
    ∃ t, exec .wipe s = .next t ∧
      s.CompletesWith t [] (s.view.regNat 1) (List.replicate (s.view.regNat 2) 0)

/-! ### GF(2^8) -/

/-- The bit-by-bit multiplications are the polynomial products modulo 0x11B and 0x409
(40_gf256.md R130, R132; 41_gf1024.md R160, R161). -/
def Obligations.MulIsThePolynomialProduct : Prop :=
  (∀ a b : Byte, gf8Mul a b = gf8MulPoly a b) ∧ ∀ a b : Word10, gf10Mul a b = gf10MulPoly a b

/-- GF(2^8) is a commutative ring: addition is XOR, associative and commutative with identity 0 and
a + a = 0; multiplication is associative and commutative, distributes over addition, 1 is its identity
and 0 annihilates (40_gf256.md R139). -/
def Obligations.Gf8IsACommutativeRing : Prop :=
  ∀ a b c : Byte, gf8Add a b = a ^^^ b ∧ gf8Add (gf8Add a b) c = gf8Add a (gf8Add b c) ∧
    gf8Add a b = gf8Add b a ∧ gf8Add a 0 = a ∧ gf8Add a a = 0 ∧
    gf8Mul (gf8Mul a b) c = gf8Mul a (gf8Mul b c) ∧ gf8Mul a b = gf8Mul b a ∧
    gf8Mul a (gf8Add b c) = gf8Add (gf8Mul a b) (gf8Mul a c) ∧ gf8Mul a 1 = a ∧ gf8Mul a 0 = 0

/-- GF8.ADD, GF8.MUL, GF8.POW and GF8.EXP complete in every state: XOR, the polynomial product, the
e-fold product with the full 32-bit exponent, and the power of 0x03 (EXP8[255] = 1), of the low bytes,
zero-extended (40_gf256.md R133, R134, R136, R137). -/
def Obligations.Gf8ResultsGoToRd : Prop :=
  ∀ (s : State) (rd rs1 rs2 : Reg),
    let a : Byte := (s.view.reg rs1).setWidth 8
    let b : Byte := (s.view.reg rs2).setWidth 8
    (∃ t, exec (.gf8Add rd rs1 rs2) s = .next t ∧
      s.CompletesWithRegs t [(rd, (a ^^^ b).setWidth 32)]) ∧
    (∃ t, exec (.gf8Mul rd rs1 rs2) s = .next t ∧
      s.CompletesWithRegs t [(rd, (gf8MulPoly a b).setWidth 32)]) ∧
    (∃ t, exec (.gf8Pow rd rs1 rs2) s = .next t ∧
      s.CompletesWithRegs t [(rd, (gf8PowTimes a (s.view.reg rs2).toNat).setWidth 32)]) ∧
    (∃ t, exec (.gf8Exp rd rs1) s = .next t ∧
      s.CompletesWithRegs t
        [(rd, (if a = 255 then 1 else gf8PowTimes 3 a.toNat : Byte).setWidth 32)])

/-- GF8.INV of a nonzero low byte completes with the unique inverse (40_gf256.md R135). -/
def Obligations.Gf8InvGivesTheUniqueInverse : Prop :=
  ∀ (s : State) (rd rs1 : Reg),
    let a : Byte := (s.view.reg rs1).setWidth 8
    a ≠ 0 → ∃ t b, exec (.gf8Inv rd rs1) s = .next t ∧
      s.CompletesWithRegs t [(rd, BitVec.setWidth 32 b)] ∧ gf8MulPoly a b = 1 ∧
      ∀ c : Byte, gf8MulPoly a c = 1 → c = b

/-- GF8.LOG of a nonzero low byte completes with the unique k in 0..254 whose power of 0x03 it is
(40_gf256.md R131, R138). -/
def Obligations.Gf8LogGivesTheUniqueLogarithm : Prop :=
  ∀ (s : State) (rd rs1 : Reg),
    let a : Byte := (s.view.reg rs1).setWidth 8
    a ≠ 0 → ∃ t k, exec (.gf8Log rd rs1) s = .next t ∧
      s.CompletesWithRegs t [(rd, BitVec.ofNat 32 k)] ∧ k ≤ 254 ∧ gf8PowTimes 3 k = a ∧
      ∀ j, j ≤ 254 → gf8PowTimes 3 j = a → j = k

/-- GF8.INV, GF8.LOG and GF10.INV of zero raise ZERO_ELEMENT with the opcode in ERRINFO and write
nothing; only the low 8 or 10 bits count (40_gf256.md R135, R138; 41_gf1024.md R165). -/
def Obligations.ZeroHasNoInverseAndNoLogarithm : Prop :=
  ∀ (s : State) (rd rs1 : Reg),
    ((s.view.reg rs1).toNat % 2 ^ 8 = 0 →
      (∃ t, exec (.gf8Inv rd rs1) s = .next t ∧ s.CompletedErr t .zeroElement 0x12) ∧
      (∃ t, exec (.gf8Log rd rs1) s = .next t ∧ s.CompletedErr t .zeroElement 0x15)) ∧
    ((s.view.reg rs1).toNat % 2 ^ 10 = 0 →
      ∃ t, exec (.gf10Inv rd rs1) s = .next t ∧ s.CompletedErr t .zeroElement 0x22)

/-! ### GF(2^10) -/

/-- GF10.ADD, GF10.MUL and GF10.POW complete in every state: XOR, the polynomial product, and the
e-fold product with the full 32-bit exponent, of the low 10 bits, zero-extended (41_gf1024.md R163,
R164, R166). -/
def Obligations.Gf10ResultsGoToRd : Prop :=
  ∀ (s : State) (rd rs1 rs2 : Reg),
    let a : Word10 := (s.view.reg rs1).setWidth 10
    let b : Word10 := (s.view.reg rs2).setWidth 10
    (∃ t, exec (.gf10Add rd rs1 rs2) s = .next t ∧
      s.CompletesWithRegs t [(rd, (a ^^^ b).setWidth 32)]) ∧
    (∃ t, exec (.gf10Mul rd rs1 rs2) s = .next t ∧
      s.CompletesWithRegs t [(rd, (gf10MulPoly a b).setWidth 32)]) ∧
    (∃ t, exec (.gf10Pow rd rs1 rs2) s = .next t ∧
      s.CompletesWithRegs t [(rd, (gf10PowTimes a (s.view.reg rs2).toNat).setWidth 32)])

/-- GF10.INV of nonzero low 10 bits completes with the unique inverse (41_gf1024.md R165). -/
def Obligations.Gf10InvGivesTheUniqueInverse : Prop :=
  ∀ (s : State) (rd rs1 : Reg),
    let a : Word10 := (s.view.reg rs1).setWidth 10
    a ≠ 0 → ∃ t b, exec (.gf10Inv rd rs1) s = .next t ∧
      s.CompletesWithRegs t [(rd, BitVec.setWidth 32 b)] ∧ gf10MulPoly a b = 1 ∧
      ∀ c : Word10, gf10MulPoly a c = 1 → c = b

/-! ### Shamir engine -/

/-- SSS.INTERP, its regions in range, reports its first failing check: the length, x, the record count,
then repeated coordinates; with valid operands it completes with the interpolated value at O, and O alone
(42_shamir.md R183, R185; 60_exceptions.md R303). -/
def Obligations.InterpChecksThenWritesTheValueAtX : Prop :=
  ∀ s : State, RegionsOk .sssInterp s →
    let k := s.view.regNat 2
    let n := s.view.regNat 3
    let x := s.view.regNat 4
    let recs := readRecords s.view.buf (s.view.regNat 1) k n
    s.RaisesFirst .sssInterp [
      (n = 0, .invalidLength, 3),
      (255 < x, .invalidParameter, 4),
      (k = 0, .insufficientShares, 1),
      (¬ (recs.map (·.1)).Nodup, .invalidShareData, 1)] ∧
    (s.buf.wf = true → n ≠ 0 → x ≤ 255 → k ≠ 0 → (recs.map (·.1)).Nodup →
      ∃ t, exec .sssInterp s = .next t ∧
        s.CompletesWith t [] (s.view.regNat 5) (interp n recs (BitVec.ofNat 8 x)))

/-- The interpolated value does not depend on the order of the records (42_shamir.md R197). -/
def Obligations.InterpIgnoresRecordOrder : Prop :=
  ∀ (n : Nat) (recs recs' : List Point) (x : Byte), recs.Perm recs' → (recs.map (·.1)).Nodup →
    interp n recs x = interp n recs' x

/-- The value passes through at each record's own x, and one record gives a constant
(42_shamir.md R183, R185). -/
def Obligations.InterpPassesThroughItsRecords : Prop :=
  ∀ (n : Nat) (recs : List Point), (recs.map (·.1)).Nodup → (∀ r ∈ recs, r.2.length = n) →
    (∀ r ∈ recs, interp n recs r.1 = r.2) ∧ (∀ r x, recs = [r] → interp n recs x = r.2)

/-- The log-domain computation equals direct interpolation for every x that is no record's
(42_shamir.md R184). -/
def Obligations.LogDomainInterpolationAgrees : Prop :=
  ∀ (points : List (Byte × Byte)) (x : Byte), points ≠ [] → (points.map (·.1)).Nodup →
    x ∉ points.map (·.1) → interp1Log points x = interp1 points x

/-- SSS.DIGEST with regions in range completes with the big-endian first 4 bytes of the HMAC in G[rd],
for any lengths, 0 included (42_shamir.md R187, R188). -/
def Obligations.DigestGoesToRd : Prop :=
  ∀ (s : State) (rd : Reg), RegionsOk (.sssDigest rd) s →
    ∃ t v, exec (.sssDigest rd) s = .next t ∧ s.CompletesWithRegs t [(rd, v)] ∧
      bytesOfWord v = (hmacSha256 (s.view.buf.readBytes (s.view.regNat 1) (s.view.regNat 2))
        (s.view.buf.readBytes (s.view.regNat 3) (s.view.regNat 4))).take 4

/-- SSS.SPLIT with valid operands completes with N records at O and nothing else written. For T = 1 each
holds the secret, and no entropy is drawn. For T >= 2 each holds its x's value of the polynomial through
the base points: the auxiliary strings at 0 .. T-3 and then the padding, drawn in this order, the digest
before the padding at 254, the secret at 255; exactly (T-2)*n + (n-4) bytes are drawn
(42_shamir.md R190, R191, R192). The digest is the model's HMAC-SHA256 (log 12). -/
def Obligations.SplitWritesItsRecords : Prop :=
  ∀ s : State, s.buf.wf = true → RegionsOk .sssSplit s →
    let n := s.view.regNat 2
    let T := s.view.regNat 3
    let N := s.view.regNat 4
    let xs := s.view.buf.readBytes (s.view.regNat 5) N
    let secret := s.view.buf.readBytes (s.view.regNat 1) n
    1 ≤ T → T ≤ N → N ≤ 255 → xs.Nodup → (∀ x ∈ xs, x ≠ 254 ∧ x ≠ 255) → n ≠ 0 →
    (T = 1 → ∃ t, exec .sssSplit s = .next t ∧
      s.CompletesWith t [] (s.view.regNat 6) (xs.flatMap fun x => x :: secret)) ∧
    (2 ≤ T → 5 ≤ n →
      let aux := fun j => (List.range n).map fun t => s.entropyAhead (j * n + t)
      let pad := (List.range (n - 4)).map fun t => s.entropyAhead ((T - 2) * n + t)
      let base : List Point := (List.range (T - 2)).map (fun j => (BitVec.ofNat 8 j, aux j)) ++
        [(254, (hmacSha256 pad secret).take 4 ++ pad), (255, secret)]
      ∃ t, exec .sssSplit s = .next t ∧ s.CompletedOk t ∧ s.RegsWritten t [] ∧
        s.BufWritten t (s.view.regNat 6) (xs.flatMap fun x => x :: interp n base x) ∧
        t.entropyPos = s.entropyPos + ((T - 2) * n + (n - 4)) ∧
        t.entropyIn = s.entropyIn.drop ((T - 2) * n + (n - 4)))

/-- SSS.SPLIT reports the first failing check in the listed order (42_shamir.md R190). -/
def Obligations.SplitReportsItsFirstFailingCheck : Prop :=
  ∀ s : State, RegionsOk .sssSplit s →
    let n := s.view.regNat 2
    let T := s.view.regNat 3
    let N := s.view.regNat 4
    let xs := s.view.buf.readBytes (s.view.regNat 5) N
    (T < 1 ∨ N < T → ∃ t, exec .sssSplit s = .next t ∧ s.CompletedErr t .invalidThreshold 3) ∧
    (1 ≤ T → T ≤ N →
      (255 < N → ∃ t, exec .sssSplit s = .next t ∧ s.CompletedErr t .invalidThreshold 4) ∧
      (N ≤ 255 →
        (¬ xs.Nodup → ∃ t, exec .sssSplit s = .next t ∧ s.CompletedErr t .invalidShareData 1) ∧
        (xs.Nodup → (∃ x ∈ xs, x = 254 ∨ x = 255) →
          ∃ t, exec .sssSplit s = .next t ∧ s.CompletedErr t .invalidShareData 2) ∧
        (xs.Nodup → (∀ x ∈ xs, x ≠ 254 ∧ x ≠ 255) → (n = 0 ∨ (2 ≤ T ∧ n ≤ 4)) →
          ∃ t, exec .sssSplit s = .next t ∧ s.CompletedErr t .invalidLength 2)))

/-- SSS.RECON with valid operands: for T = 1 it writes record 0's value, with no digest check; for T >= 2
it writes the value at 255 when the digest in the value at 254 matches, and otherwise raises
DIGEST_VERIFICATION_FAILED(0) and writes nothing (42_shamir.md R195, R196). The digest is the model's
HMAC-SHA256 (log 12). -/
def Obligations.ReconWritesRecordZeroOrAVerifiedSecret : Prop :=
  ∀ s : State, s.buf.wf = true → RegionsOk .sssRecon s →
    let k := s.view.regNat 2
    let n := s.view.regNat 3
    let T := s.view.regNat 4
    let recs := readRecords s.view.buf (s.view.regNat 1) k n
    1 ≤ T → T ≤ 255 → T ≤ k → n ≠ 0 → (recs.map (·.1)).Nodup →
    (∀ r ∈ recs, r.1 ≠ 254 ∧ r.1 ≠ 255) →
    (T = 1 → ∃ t, exec .sssRecon s = .next t ∧
      s.CompletesWith t [] (s.view.regNat 5) (s.view.buf.readBytes (s.view.regNat 1 + 1) n)) ∧
    (2 ≤ T → 5 ≤ n →
      let d := interp n recs 254
      let secret := interp n recs 255
      (digest (d.drop 4) secret = d.take 4 → ∃ t, exec .sssRecon s = .next t ∧
        s.CompletesWith t [] (s.view.regNat 5) secret) ∧
      (digest (d.drop 4) secret ≠ d.take 4 → ∃ t, exec .sssRecon s = .next t ∧
        s.CompletedErr t .digestVerificationFailed 0))

/-- SSS.RECON, its regions in range, reports its first failing check: the threshold, too few records with
min(k, 0xFFFF) * 2^16 + T in ERRINFO, the length, repeated coordinates, reserved coordinates
(42_shamir.md R195, R197; 60_exceptions.md R303, R311). -/
def Obligations.ReconReportsItsFirstFailingCheck : Prop :=
  ∀ s : State, RegionsOk .sssRecon s →
    let k := s.view.regNat 2
    let n := s.view.regNat 3
    let T := s.view.regNat 4
    let xs := (readRecords s.view.buf (s.view.regNat 1) k n).map (·.1)
    s.RaisesFirst .sssRecon [
      (T < 1 ∨ 255 < T, .invalidThreshold, 4),
      (k < T, .insufficientShares, min k 0xFFFF * 2 ^ 16 + T),
      (n = 0, .invalidLength, 3),
      (2 ≤ T ∧ n ≤ 4, .invalidLength, 3),
      (¬ xs.Nodup, .invalidShareData, 1),
      (xs.any fun x => x == 254 || x == 255, .invalidShareData, 2)]

/-- Round trip: SSS.RECON with threshold T on at least T records of a split of a secret (any entropy,
distinct x without 254 and 255) writes the secret (42_shamir.md R197). -/
def Obligations.ReconOfSplitSharesIsTheSecret : Prop :=
  ∀ (s : State) (E : Nat → Byte) (secret : List Byte) (T : Nat) (xs : List Byte),
    s.buf.wf = true → 2 ≤ T → T ≤ xs.length → 5 ≤ secret.length → xs.Nodup →
    (∀ x ∈ xs, x ≠ 254 ∧ x ≠ 255) → s.view.regNat 2 = xs.length →
    s.view.regNat 3 = secret.length → s.view.regNat 4 = T → RegionsOk .sssRecon s →
    s.view.buf.readBytes (s.view.regNat 1) (xs.length * (1 + secret.length)) =
      xs.flatMap (fun x => x :: interp secret.length (splitBase E secret T) x) →
    ∃ t, exec .sssRecon s = .next t ∧ s.CompletesWith t [] (s.view.regNat 5) secret

/-! ### Feistel -/

/-- FST.ROUND with valid operands completes with the round keystream at O, and O alone
(43_feistel.md R213, R214). -/
def Obligations.FstRoundWritesTheKeystream : Prop :=
  ∀ (s : State) (i : Byte), s.buf.wf = true → RegionsOk (.fstRound i.toNat) s →
    s.view.regNat 2 ≠ 0 → s.view.regNat 5 ≤ 15 → s.view.regNat 6 ≤ 0x7FFF → s.view.regNat 7 ≤ 1 →
    ∃ t, exec (.fstRound i.toNat) s = .next t ∧ s.CompletesWith t [] (s.view.regNat 8)
      (pbkdf2 (i :: s.view.buf.readBytes (s.view.regNat 3) (s.view.regNat 4))
        ((if s.view.regNat 7 = 1 then [] else
            [0x73, 0x68, 0x61, 0x6D, 0x69, 0x72,
              (s.view.reg 6).extractLsb' 8 8, (s.view.reg 6).extractLsb' 0 8])
          ++ s.view.buf.readBytes (s.view.regNat 1) (s.view.regNat 2))
        (2500 * 2 ^ s.view.regNat 5) (s.view.regNat 2))

/-- FST.ENC and FST.DEC with valid operands complete with the output of the four rounds at O, and O alone:
from the halves l and r, (l, r) <- (r, l XOR F(i, r)) for i = 0, 1, 2, 3, or 3, 2, 1, 0, then r || l
(43_feistel.md R211 to R213, R215, R216, R217). F is PBKDF2 of the standard (log 12). -/
def Obligations.FstCiphersRunTheFourRounds : Prop :=
  ∀ s : State, s.buf.wf = true → s.view.regNat 2 ≠ 0 → s.view.regNat 2 % 2 = 0 →
    s.view.regNat 5 ≤ 15 → s.view.regNat 6 ≤ 0x7FFF → s.view.regNat 7 ≤ 1 →
    let h := s.view.regNat 2 / 2
    let l := s.view.buf.readBytes (s.view.regNat 1) h
    let r := s.view.buf.readBytes (s.view.regNat 1 + h) h
    let salt : List Byte := if s.view.regNat 7 = 1 then [] else
      [0x73, 0x68, 0x61, 0x6D, 0x69, 0x72,
        (s.view.reg 6).extractLsb' 8 8, (s.view.reg 6).extractLsb' 0 8]
    let F := fun (i : Byte) (half : List Byte) =>
      pbkdf2 (i :: s.view.buf.readBytes (s.view.regNat 3) (s.view.regNat 4)) (salt ++ half)
        (2500 * 2 ^ s.view.regNat 5) half.length
    let rounds := fun i0 i1 i2 i3 =>
      let r1 := List.zipWith (· ^^^ ·) l (F i0 r)
      let r2 := List.zipWith (· ^^^ ·) r (F i1 r1)
      let r3 := List.zipWith (· ^^^ ·) r1 (F i2 r2)
      let r4 := List.zipWith (· ^^^ ·) r2 (F i3 r3)
      r4 ++ r3
    (RegionsOk .fstEnc s → ∃ t, exec .fstEnc s = .next t ∧
      s.CompletesWith t [] (s.view.regNat 8) (rounds 0 1 2 3)) ∧
    (RegionsOk .fstDec s → ∃ t, exec .fstDec s = .next t ∧
      s.CompletesWith t [] (s.view.regNat 8) (rounds 3 2 1 0))

/-- Decryption undoes encryption, for every string of even length and every parameter set
(43_feistel.md R215). -/
def Obligations.FeistelDecUndoesEnc : Prop :=
  ∀ (p : FstParams) (D : List Byte), D.length % 2 = 0 →
    feistelDec (fstF p) (feistelEnc (fstF p) D) = D

/-- The shared parameters are checked in order, after the regions and the length: e, then id, then ext
(43_feistel.md R210, R214, R216, R217). -/
def Obligations.FstParametersAreCheckedInOrder : Prop :=
  ∀ (s : State) (i : Instr), (i = .fstEnc ∨ i = .fstDec ∨ ∃ r, i = .fstRound r) →
    RegionsOk i s →
    (s.view.regNat 2 = 0 ∨ (s.view.regNat 2 % 2 = 1 ∧ (i = .fstEnc ∨ i = .fstDec)) →
      ∃ t, exec i s = .next t ∧ s.CompletedErr t .invalidLength 2) ∧
    (s.view.regNat 2 ≠ 0 → (s.view.regNat 2 % 2 = 0 ∨ ∃ r, i = .fstRound r) →
      (15 < s.view.regNat 5 →
        ∃ t, exec i s = .next t ∧ s.CompletedErr t .invalidParameter 5) ∧
      (s.view.regNat 5 ≤ 15 → 0x7FFF < s.view.regNat 6 →
        ∃ t, exec i s = .next t ∧ s.CompletedErr t .invalidIdentifier 6) ∧
      (s.view.regNat 5 ≤ 15 → s.view.regNat 6 ≤ 0x7FFF → 1 < s.view.regNat 7 →
        ∃ t, exec i s = .next t ∧ s.CompletedErr t .invalidParameter 7))

/-! ### RS1024 -/

/-- RS.POLYMOD, RS.CREATE and RS.VERIFY on words up to 1023 complete with the accumulator, the
checksum and its three words at O, and 1 or 0 (44_rs1024.md R236, R237, R238). -/
def Obligations.RsCommandsWriteTheirResults : Prop :=
  ∀ (s : State) (rd : Reg) (ext : Bool), s.buf.wf = true →
    let hs := readHalves s.view.buf (s.view.regNat 1) (s.view.regNat 2)
    let ws := words10 hs
    (∀ h ∈ hs, h.toNat ≤ 1023) →
    (RegionsOk (.rsPolymod rd) s → s.view.regNat 3 < 2 ^ 30 →
      ∃ t, exec (.rsPolymod rd) s = .next t ∧
        s.CompletesWithRegs t [(rd, (polymod ws ((s.view.reg 3).setWidth 30)).setWidth 32)]) ∧
    (RegionsOk (.rsCreate rd ext) s →
      let k := polymod (cust ext ++ ws ++ [0, 0, 0]) 1 ^^^ 1
      ∃ t, exec (.rsCreate rd ext) s = .next t ∧
        s.CompletesWith t [(rd, k.setWidth 32)] (s.view.regNat 3)
          (bytesOfHalf ((k.extractLsb' 20 10).setWidth 16) ++
            bytesOfHalf ((k.extractLsb' 10 10).setWidth 16) ++
            bytesOfHalf ((k.extractLsb' 0 10).setWidth 16))) ∧
    (RegionsOk (.rsVerify rd ext) s →
      ∃ t, exec (.rsVerify rd ext) s = .next t ∧
        s.CompletesWithRegs t [(rd, if polymod (cust ext ++ ws) 1 = 1 then 1 else 0)])

/-- A word above 1023 in the sequence raises INVALID_PARAMETER(1) in every RS command; only then is
RS.POLYMOD's initial value checked, INVALID_PARAMETER(3) (44_rs1024.md R234, R236). -/
def Obligations.RsRejectsWordsAbove1023 : Prop :=
  ∀ (s : State) (rd : Reg) (ext : Bool),
    let hs := readHalves s.view.buf (s.view.regNat 1) (s.view.regNat 2)
    ((∃ h ∈ hs, 1023 < h.toNat) → ∀ i : Instr,
      i = .rsPolymod rd ∨ i = .rsCreate rd ext ∨ i = .rsVerify rd ext → RegionsOk i s →
      ∃ t, exec i s = .next t ∧ s.CompletedErr t .invalidParameter 1) ∧
    ((∀ h ∈ hs, h.toNat ≤ 1023) → RegionsOk (.rsPolymod rd) s → 2 ^ 30 ≤ s.view.regNat 3 →
      ∃ t, exec (.rsPolymod rd) s = .next t ∧ s.CompletedErr t .invalidParameter 3)

/-- Completeness: a sequence followed by its checksum words verifies, for every sequence and both
customizations (44_rs1024.md R239). -/
def Obligations.CreatedChecksumVerifies : Prop :=
  ∀ (ext : Bool) (ws : List Word10), rsValid ext (ws ++ checksumWords (rsChecksum ext ws)) = true

/-- Changing one word of a valid sequence, of any length, makes it invalid: the step of R230 with the
constants of R231 loses no difference. So any single bit flip is detected (44_rs1024.md R230, R231,
R239). -/
def Obligations.ChangedWordFailsVerification : Prop :=
  ∀ (ext : Bool) (before after : List Word10) (w w' : Word10), w ≠ w' →
    rsValid ext (before ++ w :: after) = true → rsValid ext (before ++ w' :: after) = false

/-! ### Codec -/

/-- The header words hold the packed fields and the payload words are the big-endian digits of the
value, W = ceil(8n/10) of them (45_codec.md R251, R252). -/
def Obligations.ShareWordsPackTheShare : Prop :=
  ∀ sh : Share, 1 ≤ sh.gt → sh.gt ≤ 16 → 1 ≤ sh.gc → sh.gc ≤ 16 → 1 ≤ sh.mt → sh.mt ≤ 16 →
    (∃ w0 w1 w2 w3 : Word10, headerWords sh = [w0, w1, w2, w3] ∧
      w0.toNat * 1024 + w1.toNat =
        sh.id.toNat * 2 ^ 5 + (if sh.ext then 1 else 0) * 2 ^ 4 + sh.e.toNat ∧
      w2.toNat * 1024 + w3.toNat = sh.gi.toNat * 2 ^ 16 + (sh.gt - 1) * 2 ^ 12 +
        (sh.gc - 1) * 2 ^ 8 + sh.mi.toNat * 2 ^ 4 + (sh.mt - 1)) ∧
    natOfWords (payloadWords sh.value) = natOfBytes sh.value ∧
    (payloadWords sh.value).length = (8 * sh.value.length + 9) / 10

/-- CODEC.ENC, its regions in range, reports its first failing check, in the order of R255; with valid
operands it completes with the share's words at G11 and their count in G[rd], and writes nothing else
(45_codec.md R253, R255; 60_exceptions.md R303). -/
def Obligations.CodecEncChecksThenWritesTheWords : Prop :=
  ∀ (s : State) (rd : Reg), RegionsOk (.codecEnc rd) s →
    let v := s.view
    s.RaisesFirst (.codecEnc rd) [
      (0x7FFF < v.regNat 1, .invalidIdentifier, 1),
      (1 < v.regNat 2, .invalidParameter, 2),
      (15 < v.regNat 3, .invalidParameter, 3),
      (15 < v.regNat 4, .invalidParameter, 4),
      (v.regNat 5 < 1 ∨ 16 < v.regNat 5, .invalidThreshold, 5),
      (v.regNat 6 < 1 ∨ 16 < v.regNat 6, .invalidGroupConfig, 6),
      (15 < v.regNat 7, .invalidParameter, 7),
      (v.regNat 8 < 1 ∨ 16 < v.regNat 8, .invalidThreshold, 8),
      (v.regNat 6 < v.regNat 5, .invalidGroupConfig, 5),
      (v.regNat 6 ≤ v.regNat 4, .invalidGroupConfig, 4),
      (v.regNat 10 < 16 ∨ v.regNat 10 % 2 = 1, .invalidLength, 10)] ∧
    (s.buf.wf = true → v.regNat 1 ≤ 0x7FFF → v.regNat 2 ≤ 1 → v.regNat 3 ≤ 15 → v.regNat 4 ≤ 15 →
      1 ≤ v.regNat 5 → v.regNat 5 ≤ 16 → 1 ≤ v.regNat 6 → v.regNat 6 ≤ 16 → v.regNat 7 ≤ 15 →
      1 ≤ v.regNat 8 → v.regNat 8 ≤ 16 → v.regNat 5 ≤ v.regNat 6 → v.regNat 4 < v.regNat 6 →
      16 ≤ v.regNat 10 → v.regNat 10 % 2 = 0 →
      ∃ t sh, exec (.codecEnc rd) s = .next t ∧
        sh.id.toNat = v.regNat 1 ∧ (sh.ext = true ↔ v.regNat 2 = 1) ∧ sh.e.toNat = v.regNat 3 ∧
        sh.gi.toNat = v.regNat 4 ∧ sh.gt = v.regNat 5 ∧ sh.gc = v.regNat 6 ∧
        sh.mi.toNat = v.regNat 7 ∧ sh.mt = v.regNat 8 ∧
        sh.value = v.buf.readBytes (v.regNat 9) (v.regNat 10) ∧
        s.CompletesWith t [(rd, BitVec.ofNat 32 (7 + (8 * v.regNat 10 + 9) / 10))] (v.regNat 11)
          (bytesOfWords (shareWords sh)))

/-- CODEC.DEC, its input region in range, reports its first failing check: the word count, the padding
length, the output region, a word above 1023, the checksum under the string that the extendable bit
selects, the padding bits, the group threshold, the group index; when none fails it completes with the
fields in G4 to G12 and the value at O (45_codec.md R256, R257, R258; 60_exceptions.md R303). -/
def Obligations.CodecDecChecksThenWritesTheShare : Prop :=
  ∀ s : State, RegionsOk .codecDec s →
    let c := s.view.regNat 2
    let W := c - 7
    let pad := (10 * W) % 16
    let vlen := (10 * W - pad) / 8
    let hs := readHalves s.view.buf (s.view.regNat 1) c
    let ws := words10 hs
    let ie : BitVec 20 := ws.getD 0 0 ++ ws.getD 1 0
    let gm : BitVec 20 := ws.getD 2 0 ++ ws.getD 3 0
    let ext := (ws.getD 1 0).getLsbD 4
    let v := natOfWords ((ws.drop 4).take W)
    let gi := (gm.extractLsb' 16 4).toNat
    let gt := (gm.extractLsb' 12 4).toNat + 1
    let gc := (gm.extractLsb' 8 4).toNat + 1
    s.RaisesFirst .codecDec [
      (c < 20, .invalidMnemonicLength, c),
      (8 < pad, .invalidMnemonicLength, c),
      (¬ RegionOk s.bufSize (s.view.regNat 3, vlen), .bufRange, s.view.regNat 3),
      (hs.any fun h => 1023 < h.toNat, .invalidShareData, 3),
      (polymod (cust ext ++ ws) 1 ≠ 1, .checksumFailed, 0),
      (v / 2 ^ (10 * W - pad) ≠ 0, .invalidShareData, 4),
      (gc < gt, .invalidShareData, 5),
      (gc ≤ gi, .invalidShareData, 6)] ∧
    (s.buf.wf = true → 20 ≤ c → pad ≤ 8 → RegionOk s.bufSize (s.view.regNat 3, vlen) →
      (∀ h ∈ hs, h.toNat ≤ 1023) → polymod (cust ext ++ ws) 1 = 1 → v / 2 ^ (10 * W - pad) = 0 →
      gt ≤ gc → gi < gc →
      ∃ t, exec .codecDec s = .next t ∧
        s.CompletesWith t
          [(4, (ie.extractLsb' 5 15).setWidth 32), (5, if ext then 1 else 0),
           (6, (ie.extractLsb' 0 4).setWidth 32), (7, (gm.extractLsb' 16 4).setWidth 32),
           (8, BitVec.ofNat 32 gt), (9, BitVec.ofNat 32 gc),
           (10, (gm.extractLsb' 4 4).setWidth 32), (11, (gm.extractLsb' 0 4).setWidth 32 + 1),
           (12, BitVec.ofNat 32 vlen)]
          (s.view.regNat 3) (bytesOfNat vlen v))

/-- Decoding an encoded valid share gives every field and the value back (45_codec.md R254, R258). -/
def Obligations.DecodedShareIsTheEncodedOne : Prop :=
  ∀ sh : Share, 1 ≤ sh.gt → sh.gt ≤ sh.gc → sh.gc ≤ 16 → sh.gi.toNat < sh.gc → 1 ≤ sh.mt →
    sh.mt ≤ 16 → 16 ≤ sh.value.length → sh.value.length % 2 = 0 →
    20 ≤ (shareWords sh).length ∧ decodedPad (shareWords sh).length ≤ 8 ∧
    shareOfWords (shareWords sh) = .ok sh
end

