-- ==== Sys2Proof/Laws/Decode.lean ====
section
/-! SUPPORT. The fields of an encoded word, format by format (30_encoding.md R101 to R105). -/

namespace Sys2Proof

variable (op : Byte) (rd rs1 rs2 : Reg)

/-! ### Bits of the formats -/

theorem encodeI_getLsbD (off k : Nat) :
    (encodeI op rd rs1 rs2 off).getLsbD k =
      if k < 12 then (BitVec.ofNat 12 off).getLsbD k
      else if k - 12 < 4 then (regField rs2).getLsbD (k - 12)
      else if k - 12 - 4 < 4 then (regField rs1).getLsbD (k - 12 - 4)
      else if k - 12 - 4 - 4 < 4 then (regField rd).getLsbD (k - 12 - 4 - 4)
      else op.getLsbD (k - 12 - 4 - 4 - 4) := by
  show BitVec.getLsbD (w := 8 + 4 + 4 + 4 + 12) (op ++ regField rd ++ regField rs1 ++ regField rs2
    ++ BitVec.ofNat 12 off) k = _
  simp only [BitVec.getLsbD_append]

theorem encodeU_getLsbD (imm k : Nat) :
    (encodeU op rd imm).getLsbD k =
      if k < 16 then (BitVec.ofNat 16 imm).getLsbD k
      else if k - 16 < 4 then (0#4).getLsbD (k - 16)
      else if k - 16 - 4 < 4 then (regField rd).getLsbD (k - 16 - 4)
      else op.getLsbD (k - 16 - 4 - 4) := by
  show BitVec.getLsbD (w := 8 + 4 + 4 + 16) (op ++ regField rd ++ 0#4 ++ BitVec.ofNat 16 imm) k = _
  simp only [BitVec.getLsbD_append]

theorem encodeB_getLsbD (imm : BitVec 12) (k : Nat) :
    (encodeB op rd imm).getLsbD k =
      if k < 12 then imm.getLsbD k
      else if k - 12 < 8 then (0#8).getLsbD (k - 12)
      else if k - 12 - 8 < 4 then (regField rd).getLsbD (k - 12 - 8)
      else op.getLsbD (k - 12 - 8 - 4) := by
  show BitVec.getLsbD (w := 8 + 4 + 8 + 12) (op ++ regField rd ++ 0#8 ++ imm) k = _
  simp only [BitVec.getLsbD_append]

/-- Format R is format I with a zero offset. -/
theorem encodeR_eq_encodeI : encodeR op rd rs1 rs2 = encodeI op rd rs1 rs2 0 := rfl

/-- A register's field read back is the register. -/
@[simp] theorem regField_toFin (r : Reg) : (regField r).toFin = r := rfl

/-! ### Fields of format I (and R) -/

theorem extract_encodeI_op (off : Nat) : (encodeI op rd rs1 rs2 off).extractLsb' 24 8 = op := by
  apply BitVec.eq_of_getLsbD_eq
  intro j hj
  simp only [BitVec.getLsbD_extractLsb', encodeI_getLsbD, hj, decide_true, Bool.true_and]
  repeat rw [if_neg (by omega)]
  congr 1; omega

theorem extract_encodeI_rd (off : Nat) :
    (encodeI op rd rs1 rs2 off).extractLsb' 20 4 = regField rd := by
  apply BitVec.eq_of_getLsbD_eq
  intro j hj
  simp only [BitVec.getLsbD_extractLsb', encodeI_getLsbD, hj, decide_true, Bool.true_and]
  rw [if_neg (by omega), if_neg (by omega), if_neg (by omega), if_pos (by omega)]
  congr 1; omega

theorem extract_encodeI_rs1 (off : Nat) :
    (encodeI op rd rs1 rs2 off).extractLsb' 16 4 = regField rs1 := by
  apply BitVec.eq_of_getLsbD_eq
  intro j hj
  simp only [BitVec.getLsbD_extractLsb', encodeI_getLsbD, hj, decide_true, Bool.true_and]
  rw [if_neg (by omega), if_neg (by omega), if_pos (by omega)]
  congr 1; omega

theorem extract_encodeI_rs2 (off : Nat) :
    (encodeI op rd rs1 rs2 off).extractLsb' 12 4 = regField rs2 := by
  apply BitVec.eq_of_getLsbD_eq
  intro j hj
  simp only [BitVec.getLsbD_extractLsb', encodeI_getLsbD, hj, decide_true, Bool.true_and]
  rw [if_neg (by omega), if_pos (by omega)]
  congr 1; omega

theorem extract_encodeI_imm (off : Nat) :
    (encodeI op rd rs1 rs2 off).extractLsb' 0 12 = BitVec.ofNat 12 off := by
  apply BitVec.eq_of_getLsbD_eq
  intro j hj
  simp only [BitVec.getLsbD_extractLsb', encodeI_getLsbD, hj, decide_true, Bool.true_and]
  rw [if_pos (by omega)]
  congr 1; omega

/-! ### Fields of format U -/

theorem extract_encodeU_op (imm : Nat) : (encodeU op rd imm).extractLsb' 24 8 = op := by
  apply BitVec.eq_of_getLsbD_eq
  intro j hj
  simp only [BitVec.getLsbD_extractLsb', encodeU_getLsbD, hj, decide_true, Bool.true_and]
  repeat rw [if_neg (by omega)]
  congr 1; omega

theorem extract_encodeU_rd (imm : Nat) : (encodeU op rd imm).extractLsb' 20 4 = regField rd := by
  apply BitVec.eq_of_getLsbD_eq
  intro j hj
  simp only [BitVec.getLsbD_extractLsb', encodeU_getLsbD, hj, decide_true, Bool.true_and]
  rw [if_neg (by omega), if_neg (by omega), if_pos (by omega)]
  congr 1; omega

theorem extract_encodeU_zero (imm : Nat) : (encodeU op rd imm).extractLsb' 16 4 = 0#4 := by
  apply BitVec.eq_of_getLsbD_eq
  intro j hj
  simp only [BitVec.getLsbD_extractLsb', encodeU_getLsbD, hj, decide_true, Bool.true_and]
  rw [if_neg (by omega), if_pos (by omega)]
  simp

theorem extract_encodeU_imm (imm : Nat) :
    (encodeU op rd imm).extractLsb' 0 16 = BitVec.ofNat 16 imm := by
  apply BitVec.eq_of_getLsbD_eq
  intro j hj
  simp only [BitVec.getLsbD_extractLsb', encodeU_getLsbD, hj, decide_true, Bool.true_and]
  rw [if_pos (by omega)]
  congr 1; omega

/-! ### Fields of format B -/

theorem extract_encodeB_op (imm : BitVec 12) : (encodeB op rd imm).extractLsb' 24 8 = op := by
  apply BitVec.eq_of_getLsbD_eq
  intro j hj
  simp only [BitVec.getLsbD_extractLsb', encodeB_getLsbD, hj, decide_true, Bool.true_and]
  repeat rw [if_neg (by omega)]
  congr 1; omega

theorem extract_encodeB_rd (imm : BitVec 12) :
    (encodeB op rd imm).extractLsb' 20 4 = regField rd := by
  apply BitVec.eq_of_getLsbD_eq
  intro j hj
  simp only [BitVec.getLsbD_extractLsb', encodeB_getLsbD, hj, decide_true, Bool.true_and]
  rw [if_neg (by omega), if_neg (by omega), if_pos (by omega)]
  congr 1; omega

theorem extract_encodeB_zero (imm : BitVec 12) : (encodeB op rd imm).extractLsb' 12 8 = 0#8 := by
  apply BitVec.eq_of_getLsbD_eq
  intro j hj
  simp only [BitVec.getLsbD_extractLsb', encodeB_getLsbD, hj, decide_true, Bool.true_and]
  rw [if_neg (by omega), if_pos (by omega)]
  simp

/-- Any part of imm12 read back (R105: mode bits). -/
theorem extract_encodeB_imm (imm : BitVec 12) (lo len : Nat) (h : lo + len ≤ 12) :
    (encodeB op rd imm).extractLsb' lo len = imm.extractLsb' lo len := by
  apply BitVec.eq_of_getLsbD_eq
  intro j hj
  simp only [BitVec.getLsbD_extractLsb', encodeB_getLsbD, hj, decide_true, Bool.true_and]
  rw [if_pos (by omega)]

/-! ### The zero-field check -/

theorem whenZero_ok_iff (w : Word) (z : Bool) (i j : Instr) :
    whenZero w z i = .ok j ↔ z = true ∧ i = j := by
  cases z <;> simp [whenZero]

theorem whenZero_error_iff (w : Word) (z : Bool) (i : Instr) (e : DecodeError) :
    whenZero w z i = .error e ↔ z = false ∧ e = .zeroFieldSet (opField w) := by
  cases z <;> simp [whenZero, eq_comm]

end Sys2Proof
end

