-- ==== Sys2Proof/Laws/State.lean ====
section
/-! SUPPORT. The small lemmas of State's updates: one per field per update, so that no later proof
unfolds a record update. -/

namespace Sys2Proof.Machine

section Updates

variable (s : State)

/-! ### flagsAccepted: acceptance's flags -/

@[simp] theorem State.flagsAccepted_g : (s.flagsAccepted).g = s.g := rfl
@[simp] theorem State.flagsAccepted_buf : (s.flagsAccepted).buf = s.buf := rfl
@[simp] theorem State.flagsAccepted_busy : (s.flagsAccepted).busy = true := rfl
@[simp] theorem State.flagsAccepted_done : (s.flagsAccepted).done = false := rfl
@[simp] theorem State.flagsAccepted_err : (s.flagsAccepted).err = false := rfl
@[simp] theorem State.flagsAccepted_ovr : (s.flagsAccepted).ovr = s.ovr := rfl
@[simp] theorem State.flagsAccepted_errCode : (s.flagsAccepted).errCode = 0 := rfl
@[simp] theorem State.flagsAccepted_errInfo : (s.flagsAccepted).errInfo = 0 := rfl
@[simp] theorem State.flagsAccepted_ie : (s.flagsAccepted).ie = s.ie := rfl
@[simp] theorem State.flagsAccepted_pending : (s.flagsAccepted).pending = s.pending := rfl
@[simp] theorem State.flagsAccepted_scratch : (s.flagsAccepted).scratch = s.scratch := rfl
@[simp] theorem State.flagsAccepted_entropyPos : (s.flagsAccepted).entropyPos = s.entropyPos := rfl
@[simp] theorem State.flagsAccepted_bufSize : (s.flagsAccepted).bufSize = s.bufSize := rfl
@[simp] theorem State.flagsAccepted_entropyIn : (s.flagsAccepted).entropyIn = s.entropyIn := rfl
@[simp] theorem State.flagsAccepted_inputs : (s.flagsAccepted).inputs = s.inputs := rfl
@[simp] theorem State.flagsAccepted_readData : (s.flagsAccepted).readData = s.readData := rfl
@[simp] theorem State.flagsAccepted_freeCount : (s.flagsAccepted).freeCount = s.freeCount := rfl

/-! ### flagsOk: the flags of a completion without error -/

@[simp] theorem State.flagsOk_g : (s.flagsOk).g = s.g := rfl
@[simp] theorem State.flagsOk_buf : (s.flagsOk).buf = s.buf := rfl
@[simp] theorem State.flagsOk_busy : (s.flagsOk).busy = false := rfl
@[simp] theorem State.flagsOk_done : (s.flagsOk).done = true := rfl
@[simp] theorem State.flagsOk_err : (s.flagsOk).err = false := rfl
@[simp] theorem State.flagsOk_ovr : (s.flagsOk).ovr = s.ovr := rfl
@[simp] theorem State.flagsOk_errCode : (s.flagsOk).errCode = 0 := rfl
@[simp] theorem State.flagsOk_errInfo : (s.flagsOk).errInfo = 0 := rfl
@[simp] theorem State.flagsOk_ie : (s.flagsOk).ie = s.ie := rfl
@[simp] theorem State.flagsOk_pending : (s.flagsOk).pending = s.pending := rfl
@[simp] theorem State.flagsOk_scratch : (s.flagsOk).scratch = s.scratch := rfl
@[simp] theorem State.flagsOk_entropyPos : (s.flagsOk).entropyPos = s.entropyPos := rfl
@[simp] theorem State.flagsOk_bufSize : (s.flagsOk).bufSize = s.bufSize := rfl
@[simp] theorem State.flagsOk_entropyIn : (s.flagsOk).entropyIn = s.entropyIn := rfl
@[simp] theorem State.flagsOk_inputs : (s.flagsOk).inputs = s.inputs := rfl
@[simp] theorem State.flagsOk_readData : (s.flagsOk).readData = s.readData := rfl
@[simp] theorem State.flagsOk_freeCount : (s.flagsOk).freeCount = s.freeCount := rfl

/-! ### flagsErr: the flags of a completion with error -/

@[simp] theorem State.flagsErr_g (c : ErrCode) (info : Word) : (s.flagsErr c info).g = s.g := rfl
@[simp] theorem State.flagsErr_buf (c : ErrCode) (info : Word) : (s.flagsErr c info).buf = s.buf := rfl
@[simp] theorem State.flagsErr_busy (c : ErrCode) (info : Word) : (s.flagsErr c info).busy = false := rfl
@[simp] theorem State.flagsErr_done (c : ErrCode) (info : Word) : (s.flagsErr c info).done = true := rfl
@[simp] theorem State.flagsErr_err (c : ErrCode) (info : Word) : (s.flagsErr c info).err = true := rfl
@[simp] theorem State.flagsErr_ovr (c : ErrCode) (info : Word) : (s.flagsErr c info).ovr = s.ovr := rfl
@[simp] theorem State.flagsErr_errCode (c : ErrCode) (info : Word) : (s.flagsErr c info).errCode = c.code := rfl
@[simp] theorem State.flagsErr_errInfo (c : ErrCode) (info : Word) : (s.flagsErr c info).errInfo = info := rfl
@[simp] theorem State.flagsErr_ie (c : ErrCode) (info : Word) : (s.flagsErr c info).ie = s.ie := rfl
@[simp] theorem State.flagsErr_pending (c : ErrCode) (info : Word) : (s.flagsErr c info).pending = s.pending := rfl
@[simp] theorem State.flagsErr_scratch (c : ErrCode) (info : Word) : (s.flagsErr c info).scratch = s.scratch := rfl
@[simp] theorem State.flagsErr_entropyPos (c : ErrCode) (info : Word) : (s.flagsErr c info).entropyPos = s.entropyPos := rfl
@[simp] theorem State.flagsErr_bufSize (c : ErrCode) (info : Word) : (s.flagsErr c info).bufSize = s.bufSize := rfl
@[simp] theorem State.flagsErr_entropyIn (c : ErrCode) (info : Word) : (s.flagsErr c info).entropyIn = s.entropyIn := rfl
@[simp] theorem State.flagsErr_inputs (c : ErrCode) (info : Word) : (s.flagsErr c info).inputs = s.inputs := rfl
@[simp] theorem State.flagsErr_readData (c : ErrCode) (info : Word) : (s.flagsErr c info).readData = s.readData := rfl
@[simp] theorem State.flagsErr_freeCount (c : ErrCode) (info : Word) : (s.flagsErr c info).freeCount = s.freeCount := rfl

/-! ### clearDone: W1C of DONE -/

@[simp] theorem State.clearDone_g : (s.clearDone).g = s.g := rfl
@[simp] theorem State.clearDone_buf : (s.clearDone).buf = s.buf := rfl
@[simp] theorem State.clearDone_busy : (s.clearDone).busy = s.busy := rfl
@[simp] theorem State.clearDone_done : (s.clearDone).done = false := rfl
@[simp] theorem State.clearDone_err : (s.clearDone).err = s.err := rfl
@[simp] theorem State.clearDone_ovr : (s.clearDone).ovr = s.ovr := rfl
@[simp] theorem State.clearDone_errCode : (s.clearDone).errCode = s.errCode := rfl
@[simp] theorem State.clearDone_errInfo : (s.clearDone).errInfo = s.errInfo := rfl
@[simp] theorem State.clearDone_ie : (s.clearDone).ie = s.ie := rfl
@[simp] theorem State.clearDone_pending : (s.clearDone).pending = s.pending := rfl
@[simp] theorem State.clearDone_scratch : (s.clearDone).scratch = s.scratch := rfl
@[simp] theorem State.clearDone_entropyPos : (s.clearDone).entropyPos = s.entropyPos := rfl
@[simp] theorem State.clearDone_bufSize : (s.clearDone).bufSize = s.bufSize := rfl
@[simp] theorem State.clearDone_entropyIn : (s.clearDone).entropyIn = s.entropyIn := rfl
@[simp] theorem State.clearDone_inputs : (s.clearDone).inputs = s.inputs := rfl
@[simp] theorem State.clearDone_readData : (s.clearDone).readData = s.readData := rfl
@[simp] theorem State.clearDone_freeCount : (s.clearDone).freeCount = s.freeCount := rfl

/-! ### clearErr: W1C of ERR -/

@[simp] theorem State.clearErr_g : (s.clearErr).g = s.g := rfl
@[simp] theorem State.clearErr_buf : (s.clearErr).buf = s.buf := rfl
@[simp] theorem State.clearErr_busy : (s.clearErr).busy = s.busy := rfl
@[simp] theorem State.clearErr_done : (s.clearErr).done = s.done := rfl
@[simp] theorem State.clearErr_err : (s.clearErr).err = false := rfl
@[simp] theorem State.clearErr_ovr : (s.clearErr).ovr = s.ovr := rfl
@[simp] theorem State.clearErr_errCode : (s.clearErr).errCode = 0 := rfl
@[simp] theorem State.clearErr_errInfo : (s.clearErr).errInfo = 0 := rfl
@[simp] theorem State.clearErr_ie : (s.clearErr).ie = s.ie := rfl
@[simp] theorem State.clearErr_pending : (s.clearErr).pending = s.pending := rfl
@[simp] theorem State.clearErr_scratch : (s.clearErr).scratch = s.scratch := rfl
@[simp] theorem State.clearErr_entropyPos : (s.clearErr).entropyPos = s.entropyPos := rfl
@[simp] theorem State.clearErr_bufSize : (s.clearErr).bufSize = s.bufSize := rfl
@[simp] theorem State.clearErr_entropyIn : (s.clearErr).entropyIn = s.entropyIn := rfl
@[simp] theorem State.clearErr_inputs : (s.clearErr).inputs = s.inputs := rfl
@[simp] theorem State.clearErr_readData : (s.clearErr).readData = s.readData := rfl
@[simp] theorem State.clearErr_freeCount : (s.clearErr).freeCount = s.freeCount := rfl

/-! ### clearOvr: W1C of OVR -/

@[simp] theorem State.clearOvr_g : (s.clearOvr).g = s.g := rfl
@[simp] theorem State.clearOvr_buf : (s.clearOvr).buf = s.buf := rfl
@[simp] theorem State.clearOvr_busy : (s.clearOvr).busy = s.busy := rfl
@[simp] theorem State.clearOvr_done : (s.clearOvr).done = s.done := rfl
@[simp] theorem State.clearOvr_err : (s.clearOvr).err = s.err := rfl
@[simp] theorem State.clearOvr_ovr : (s.clearOvr).ovr = false := rfl
@[simp] theorem State.clearOvr_errCode : (s.clearOvr).errCode = s.errCode := rfl
@[simp] theorem State.clearOvr_errInfo : (s.clearOvr).errInfo = s.errInfo := rfl
@[simp] theorem State.clearOvr_ie : (s.clearOvr).ie = s.ie := rfl
@[simp] theorem State.clearOvr_pending : (s.clearOvr).pending = s.pending := rfl
@[simp] theorem State.clearOvr_scratch : (s.clearOvr).scratch = s.scratch := rfl
@[simp] theorem State.clearOvr_entropyPos : (s.clearOvr).entropyPos = s.entropyPos := rfl
@[simp] theorem State.clearOvr_bufSize : (s.clearOvr).bufSize = s.bufSize := rfl
@[simp] theorem State.clearOvr_entropyIn : (s.clearOvr).entropyIn = s.entropyIn := rfl
@[simp] theorem State.clearOvr_inputs : (s.clearOvr).inputs = s.inputs := rfl
@[simp] theorem State.clearOvr_readData : (s.clearOvr).readData = s.readData := rfl
@[simp] theorem State.clearOvr_freeCount : (s.clearOvr).freeCount = s.freeCount := rfl

/-! ### setOvr: a dropped write -/

@[simp] theorem State.setOvr_g : (s.setOvr).g = s.g := rfl
@[simp] theorem State.setOvr_buf : (s.setOvr).buf = s.buf := rfl
@[simp] theorem State.setOvr_busy : (s.setOvr).busy = s.busy := rfl
@[simp] theorem State.setOvr_done : (s.setOvr).done = s.done := rfl
@[simp] theorem State.setOvr_err : (s.setOvr).err = s.err := rfl
@[simp] theorem State.setOvr_ovr : (s.setOvr).ovr = true := rfl
@[simp] theorem State.setOvr_errCode : (s.setOvr).errCode = s.errCode := rfl
@[simp] theorem State.setOvr_errInfo : (s.setOvr).errInfo = s.errInfo := rfl
@[simp] theorem State.setOvr_ie : (s.setOvr).ie = s.ie := rfl
@[simp] theorem State.setOvr_pending : (s.setOvr).pending = s.pending := rfl
@[simp] theorem State.setOvr_scratch : (s.setOvr).scratch = s.scratch := rfl
@[simp] theorem State.setOvr_entropyPos : (s.setOvr).entropyPos = s.entropyPos := rfl
@[simp] theorem State.setOvr_bufSize : (s.setOvr).bufSize = s.bufSize := rfl
@[simp] theorem State.setOvr_entropyIn : (s.setOvr).entropyIn = s.entropyIn := rfl
@[simp] theorem State.setOvr_inputs : (s.setOvr).inputs = s.inputs := rfl
@[simp] theorem State.setOvr_readData : (s.setOvr).readData = s.readData := rfl
@[simp] theorem State.setOvr_freeCount : (s.setOvr).freeCount = s.freeCount := rfl

/-! ### drawEntropy: entropy draws -/

@[simp] theorem State.drawEntropy_g (n : Nat) : (s.drawEntropy n).g = s.g := rfl
@[simp] theorem State.drawEntropy_buf (n : Nat) : (s.drawEntropy n).buf = s.buf := rfl
@[simp] theorem State.drawEntropy_busy (n : Nat) : (s.drawEntropy n).busy = s.busy := rfl
@[simp] theorem State.drawEntropy_done (n : Nat) : (s.drawEntropy n).done = s.done := rfl
@[simp] theorem State.drawEntropy_err (n : Nat) : (s.drawEntropy n).err = s.err := rfl
@[simp] theorem State.drawEntropy_ovr (n : Nat) : (s.drawEntropy n).ovr = s.ovr := rfl
@[simp] theorem State.drawEntropy_errCode (n : Nat) : (s.drawEntropy n).errCode = s.errCode := rfl
@[simp] theorem State.drawEntropy_errInfo (n : Nat) : (s.drawEntropy n).errInfo = s.errInfo := rfl
@[simp] theorem State.drawEntropy_ie (n : Nat) : (s.drawEntropy n).ie = s.ie := rfl
@[simp] theorem State.drawEntropy_pending (n : Nat) : (s.drawEntropy n).pending = s.pending := rfl
@[simp] theorem State.drawEntropy_scratch (n : Nat) : (s.drawEntropy n).scratch = s.scratch := rfl
@[simp] theorem State.drawEntropy_entropyPos (n : Nat) : (s.drawEntropy n).entropyPos = s.entropyPos + n := rfl
@[simp] theorem State.drawEntropy_bufSize (n : Nat) : (s.drawEntropy n).bufSize = s.bufSize := rfl
@[simp] theorem State.drawEntropy_entropyIn (n : Nat) : (s.drawEntropy n).entropyIn = s.entropyIn.drop n := rfl
@[simp] theorem State.drawEntropy_inputs (n : Nat) : (s.drawEntropy n).inputs = s.inputs := rfl
@[simp] theorem State.drawEntropy_readData (n : Nat) : (s.drawEntropy n).readData = s.readData := rfl
@[simp] theorem State.drawEntropy_freeCount (n : Nat) : (s.drawEntropy n).freeCount = s.freeCount := rfl

/-! ### accept: acceptance -/

@[simp] theorem State.accept_g (w : Word) : (s.accept w).g = s.g := rfl
@[simp] theorem State.accept_buf (w : Word) : (s.accept w).buf = s.buf := rfl
@[simp] theorem State.accept_busy (w : Word) : (s.accept w).busy = true := rfl
@[simp] theorem State.accept_done (w : Word) : (s.accept w).done = false := rfl
@[simp] theorem State.accept_err (w : Word) : (s.accept w).err = false := rfl
@[simp] theorem State.accept_ovr (w : Word) : (s.accept w).ovr = s.ovr := rfl
@[simp] theorem State.accept_errCode (w : Word) : (s.accept w).errCode = 0 := rfl
@[simp] theorem State.accept_errInfo (w : Word) : (s.accept w).errInfo = 0 := rfl
@[simp] theorem State.accept_ie (w : Word) : (s.accept w).ie = s.ie := rfl
@[simp] theorem State.accept_pending (w : Word) : (s.accept w).pending = some ⟨w, ⟨s.g, s.buf⟩⟩ := rfl
@[simp] theorem State.accept_scratch (w : Word) : (s.accept w).scratch = s.scratch := rfl
@[simp] theorem State.accept_entropyPos (w : Word) : (s.accept w).entropyPos = s.entropyPos := rfl
@[simp] theorem State.accept_bufSize (w : Word) : (s.accept w).bufSize = s.bufSize := rfl
@[simp] theorem State.accept_entropyIn (w : Word) : (s.accept w).entropyIn = s.entropyIn := rfl
@[simp] theorem State.accept_inputs (w : Word) : (s.accept w).inputs = s.inputs := rfl
@[simp] theorem State.accept_readData (w : Word) : (s.accept w).readData = s.readData := rfl
@[simp] theorem State.accept_freeCount (w : Word) : (s.accept w).freeCount = s.freeCount := rfl

/-! ### retire: the end of a command -/

@[simp] theorem State.retire_g : (s.retire).g = s.g := rfl
@[simp] theorem State.retire_buf : (s.retire).buf = s.buf := rfl
@[simp] theorem State.retire_busy : (s.retire).busy = s.busy := rfl
@[simp] theorem State.retire_done : (s.retire).done = s.done := rfl
@[simp] theorem State.retire_err : (s.retire).err = s.err := rfl
@[simp] theorem State.retire_ovr : (s.retire).ovr = s.ovr := rfl
@[simp] theorem State.retire_errCode : (s.retire).errCode = s.errCode := rfl
@[simp] theorem State.retire_errInfo : (s.retire).errInfo = s.errInfo := rfl
@[simp] theorem State.retire_ie : (s.retire).ie = s.ie := rfl
@[simp] theorem State.retire_pending : (s.retire).pending = none := rfl
@[simp] theorem State.retire_scratch : (s.retire).scratch = [] := rfl
@[simp] theorem State.retire_entropyPos : (s.retire).entropyPos = s.entropyPos := rfl
@[simp] theorem State.retire_bufSize : (s.retire).bufSize = s.bufSize := rfl
@[simp] theorem State.retire_entropyIn : (s.retire).entropyIn = s.entropyIn := rfl
@[simp] theorem State.retire_inputs : (s.retire).inputs = s.inputs := rfl
@[simp] theorem State.retire_readData : (s.retire).readData = s.readData := rfl
@[simp] theorem State.retire_freeCount : (s.retire).freeCount = s.freeCount := rfl

/-! ### applyEffects: a command's writes -/

@[simp] theorem State.applyEffects_g (e : Effects) : (s.applyEffects e).g = s.g.writeAll e.regs := rfl
@[simp] theorem State.applyEffects_buf (e : Effects) : (s.applyEffects e).buf = s.buf.writeBytes e.addr e.bytes := rfl
@[simp] theorem State.applyEffects_busy (e : Effects) : (s.applyEffects e).busy = s.busy := rfl
@[simp] theorem State.applyEffects_done (e : Effects) : (s.applyEffects e).done = s.done := rfl
@[simp] theorem State.applyEffects_err (e : Effects) : (s.applyEffects e).err = s.err := rfl
@[simp] theorem State.applyEffects_ovr (e : Effects) : (s.applyEffects e).ovr = s.ovr := rfl
@[simp] theorem State.applyEffects_errCode (e : Effects) : (s.applyEffects e).errCode = s.errCode := rfl
@[simp] theorem State.applyEffects_errInfo (e : Effects) : (s.applyEffects e).errInfo = s.errInfo := rfl
@[simp] theorem State.applyEffects_ie (e : Effects) : (s.applyEffects e).ie = s.ie := rfl
@[simp] theorem State.applyEffects_pending (e : Effects) : (s.applyEffects e).pending = s.pending := rfl
@[simp] theorem State.applyEffects_scratch (e : Effects) : (s.applyEffects e).scratch = s.scratch := rfl
@[simp] theorem State.applyEffects_entropyPos (e : Effects) : (s.applyEffects e).entropyPos = s.entropyPos + e.draws := rfl
@[simp] theorem State.applyEffects_bufSize (e : Effects) : (s.applyEffects e).bufSize = s.bufSize := rfl
@[simp] theorem State.applyEffects_entropyIn (e : Effects) : (s.applyEffects e).entropyIn = s.entropyIn.drop e.draws := rfl
@[simp] theorem State.applyEffects_inputs (e : Effects) : (s.applyEffects e).inputs = s.inputs := rfl
@[simp] theorem State.applyEffects_readData (e : Effects) : (s.applyEffects e).readData = s.readData := rfl
@[simp] theorem State.applyEffects_freeCount (e : Effects) : (s.applyEffects e).freeCount = s.freeCount := rfl

/-! ### takeError: a completion with error -/

@[simp] theorem State.takeError_g (c : ErrCode) (info : Word) : (s.takeError c info).g = s.g := rfl
@[simp] theorem State.takeError_buf (c : ErrCode) (info : Word) : (s.takeError c info).buf = s.buf := rfl
@[simp] theorem State.takeError_busy (c : ErrCode) (info : Word) : (s.takeError c info).busy = false := rfl
@[simp] theorem State.takeError_done (c : ErrCode) (info : Word) : (s.takeError c info).done = true := rfl
@[simp] theorem State.takeError_err (c : ErrCode) (info : Word) : (s.takeError c info).err = true := rfl
@[simp] theorem State.takeError_ovr (c : ErrCode) (info : Word) : (s.takeError c info).ovr = s.ovr := rfl
@[simp] theorem State.takeError_errCode (c : ErrCode) (info : Word) : (s.takeError c info).errCode = c.code := rfl
@[simp] theorem State.takeError_errInfo (c : ErrCode) (info : Word) : (s.takeError c info).errInfo = info := rfl
@[simp] theorem State.takeError_ie (c : ErrCode) (info : Word) : (s.takeError c info).ie = s.ie := rfl
@[simp] theorem State.takeError_pending (c : ErrCode) (info : Word) : (s.takeError c info).pending = none := rfl
@[simp] theorem State.takeError_scratch (c : ErrCode) (info : Word) : (s.takeError c info).scratch = [] := rfl
@[simp] theorem State.takeError_entropyPos (c : ErrCode) (info : Word) : (s.takeError c info).entropyPos = s.entropyPos := rfl
@[simp] theorem State.takeError_bufSize (c : ErrCode) (info : Word) : (s.takeError c info).bufSize = s.bufSize := rfl
@[simp] theorem State.takeError_entropyIn (c : ErrCode) (info : Word) : (s.takeError c info).entropyIn = s.entropyIn := rfl
@[simp] theorem State.takeError_inputs (c : ErrCode) (info : Word) : (s.takeError c info).inputs = s.inputs := rfl
@[simp] theorem State.takeError_readData (c : ErrCode) (info : Word) : (s.takeError c info).readData = s.readData := rfl
@[simp] theorem State.takeError_freeCount (c : ErrCode) (info : Word) : (s.takeError c info).freeCount = s.freeCount := rfl

/-! ### returnWord: a host read -/

@[simp] theorem State.returnWord_g (v : Word) : (s.returnWord v).g = s.g := rfl
@[simp] theorem State.returnWord_buf (v : Word) : (s.returnWord v).buf = s.buf := rfl
@[simp] theorem State.returnWord_busy (v : Word) : (s.returnWord v).busy = s.busy := rfl
@[simp] theorem State.returnWord_done (v : Word) : (s.returnWord v).done = s.done := rfl
@[simp] theorem State.returnWord_err (v : Word) : (s.returnWord v).err = s.err := rfl
@[simp] theorem State.returnWord_ovr (v : Word) : (s.returnWord v).ovr = s.ovr := rfl
@[simp] theorem State.returnWord_errCode (v : Word) : (s.returnWord v).errCode = s.errCode := rfl
@[simp] theorem State.returnWord_errInfo (v : Word) : (s.returnWord v).errInfo = s.errInfo := rfl
@[simp] theorem State.returnWord_ie (v : Word) : (s.returnWord v).ie = s.ie := rfl
@[simp] theorem State.returnWord_pending (v : Word) : (s.returnWord v).pending = s.pending := rfl
@[simp] theorem State.returnWord_scratch (v : Word) : (s.returnWord v).scratch = s.scratch := rfl
@[simp] theorem State.returnWord_entropyPos (v : Word) : (s.returnWord v).entropyPos = s.entropyPos := rfl
@[simp] theorem State.returnWord_bufSize (v : Word) : (s.returnWord v).bufSize = s.bufSize := rfl
@[simp] theorem State.returnWord_entropyIn (v : Word) : (s.returnWord v).entropyIn = s.entropyIn := rfl
@[simp] theorem State.returnWord_inputs (v : Word) : (s.returnWord v).inputs = s.inputs := rfl
@[simp] theorem State.returnWord_readData (v : Word) : (s.returnWord v).readData = some v := rfl
@[simp] theorem State.returnWord_freeCount (v : Word) : (s.returnWord v).freeCount = s.freeCount := rfl

/-! ### returnFree: a host read of a free value -/

@[simp] theorem State.returnFree_g : (s.returnFree).g = s.g := rfl
@[simp] theorem State.returnFree_buf : (s.returnFree).buf = s.buf := rfl
@[simp] theorem State.returnFree_busy : (s.returnFree).busy = s.busy := rfl
@[simp] theorem State.returnFree_done : (s.returnFree).done = s.done := rfl
@[simp] theorem State.returnFree_err : (s.returnFree).err = s.err := rfl
@[simp] theorem State.returnFree_ovr : (s.returnFree).ovr = s.ovr := rfl
@[simp] theorem State.returnFree_errCode : (s.returnFree).errCode = s.errCode := rfl
@[simp] theorem State.returnFree_errInfo : (s.returnFree).errInfo = s.errInfo := rfl
@[simp] theorem State.returnFree_ie : (s.returnFree).ie = s.ie := rfl
@[simp] theorem State.returnFree_pending : (s.returnFree).pending = s.pending := rfl
@[simp] theorem State.returnFree_scratch : (s.returnFree).scratch = s.scratch := rfl
@[simp] theorem State.returnFree_entropyPos : (s.returnFree).entropyPos = s.entropyPos := rfl
@[simp] theorem State.returnFree_bufSize : (s.returnFree).bufSize = s.bufSize := rfl
@[simp] theorem State.returnFree_entropyIn : (s.returnFree).entropyIn = s.entropyIn := rfl
@[simp] theorem State.returnFree_inputs : (s.returnFree).inputs = s.inputs := rfl
@[simp] theorem State.returnFree_readData : (s.returnFree).readData = some (Config.busyRead s.freeCount) := rfl
@[simp] theorem State.returnFree_freeCount : (s.returnFree).freeCount = s.freeCount + 1 := rfl

/-! ### placeCommand: placing a command -/

@[simp] theorem State.placeCommand_g (w : Word) : (s.placeCommand w).g = s.g := rfl
@[simp] theorem State.placeCommand_buf (w : Word) : (s.placeCommand w).buf = s.buf := rfl
@[simp] theorem State.placeCommand_busy (w : Word) : (s.placeCommand w).busy = true := rfl
@[simp] theorem State.placeCommand_done (w : Word) : (s.placeCommand w).done = false := rfl
@[simp] theorem State.placeCommand_err (w : Word) : (s.placeCommand w).err = false := rfl
@[simp] theorem State.placeCommand_ovr (w : Word) : (s.placeCommand w).ovr = s.ovr := rfl
@[simp] theorem State.placeCommand_errCode (w : Word) : (s.placeCommand w).errCode = 0 := rfl
@[simp] theorem State.placeCommand_errInfo (w : Word) : (s.placeCommand w).errInfo = 0 := rfl
@[simp] theorem State.placeCommand_ie (w : Word) : (s.placeCommand w).ie = s.ie := rfl
@[simp] theorem State.placeCommand_pending (w : Word) : (s.placeCommand w).pending = some ⟨w, ⟨s.g, s.buf⟩⟩ := rfl
@[simp] theorem State.placeCommand_scratch (w : Word) : (s.placeCommand w).scratch = s.scratch := rfl
@[simp] theorem State.placeCommand_entropyPos (w : Word) : (s.placeCommand w).entropyPos = s.entropyPos := rfl
@[simp] theorem State.placeCommand_bufSize (w : Word) : (s.placeCommand w).bufSize = s.bufSize := rfl
@[simp] theorem State.placeCommand_entropyIn (w : Word) : (s.placeCommand w).entropyIn = s.entropyIn := rfl
@[simp] theorem State.placeCommand_inputs (w : Word) : (s.placeCommand w).inputs = .engineMoves :: s.inputs := rfl
@[simp] theorem State.placeCommand_readData (w : Word) : (s.placeCommand w).readData = s.readData := rfl
@[simp] theorem State.placeCommand_freeCount (w : Word) : (s.placeCommand w).freeCount = s.freeCount := rfl

/-! ### resetCore: reset of the core -/

@[simp] theorem State.resetCore_g : s.resetCore.g = State.reset.g := rfl
@[simp] theorem State.resetCore_buf : s.resetCore.buf = State.reset.buf := rfl
@[simp] theorem State.resetCore_busy : s.resetCore.busy = State.reset.busy := rfl
@[simp] theorem State.resetCore_done : s.resetCore.done = State.reset.done := rfl
@[simp] theorem State.resetCore_err : s.resetCore.err = State.reset.err := rfl
@[simp] theorem State.resetCore_ovr : s.resetCore.ovr = State.reset.ovr := rfl
@[simp] theorem State.resetCore_errCode : s.resetCore.errCode = State.reset.errCode := rfl
@[simp] theorem State.resetCore_errInfo : s.resetCore.errInfo = State.reset.errInfo := rfl
@[simp] theorem State.resetCore_ie : s.resetCore.ie = State.reset.ie := rfl
@[simp] theorem State.resetCore_pending : s.resetCore.pending = State.reset.pending := rfl
@[simp] theorem State.resetCore_scratch : s.resetCore.scratch = State.reset.scratch := rfl
@[simp] theorem State.resetCore_entropyPos : s.resetCore.entropyPos = s.entropyPos := rfl
@[simp] theorem State.resetCore_bufSize : s.resetCore.bufSize = s.bufSize := rfl
@[simp] theorem State.resetCore_entropyIn : s.resetCore.entropyIn = s.entropyIn := rfl
@[simp] theorem State.resetCore_inputs : s.resetCore.inputs = s.inputs := rfl
@[simp] theorem State.resetCore_readData : s.resetCore.readData = s.readData := rfl
@[simp] theorem State.resetCore_freeCount : s.resetCore.freeCount = s.freeCount := rfl

/-! ### complete: completion without error -/

@[simp] theorem State.complete_ok_g (e : Effects) : (s.complete (.ok e)).g = s.g.writeAll e.regs := rfl
@[simp] theorem State.complete_ok_buf (e : Effects) : (s.complete (.ok e)).buf = s.buf.writeBytes e.addr e.bytes := rfl
@[simp] theorem State.complete_ok_busy (e : Effects) : (s.complete (.ok e)).busy = false := rfl
@[simp] theorem State.complete_ok_done (e : Effects) : (s.complete (.ok e)).done = true := rfl
@[simp] theorem State.complete_ok_err (e : Effects) : (s.complete (.ok e)).err = false := rfl
@[simp] theorem State.complete_ok_ovr (e : Effects) : (s.complete (.ok e)).ovr = s.ovr := rfl
@[simp] theorem State.complete_ok_errCode (e : Effects) : (s.complete (.ok e)).errCode = 0 := rfl
@[simp] theorem State.complete_ok_errInfo (e : Effects) : (s.complete (.ok e)).errInfo = 0 := rfl
@[simp] theorem State.complete_ok_ie (e : Effects) : (s.complete (.ok e)).ie = s.ie := rfl
@[simp] theorem State.complete_ok_pending (e : Effects) : (s.complete (.ok e)).pending = none := rfl
@[simp] theorem State.complete_ok_scratch (e : Effects) : (s.complete (.ok e)).scratch = [] := rfl
@[simp] theorem State.complete_ok_entropyPos (e : Effects) : (s.complete (.ok e)).entropyPos = s.entropyPos + e.draws := rfl
@[simp] theorem State.complete_ok_bufSize (e : Effects) : (s.complete (.ok e)).bufSize = s.bufSize := rfl
@[simp] theorem State.complete_ok_entropyIn (e : Effects) : (s.complete (.ok e)).entropyIn = s.entropyIn.drop e.draws := rfl
@[simp] theorem State.complete_ok_inputs (e : Effects) : (s.complete (.ok e)).inputs = s.inputs := rfl
@[simp] theorem State.complete_ok_readData (e : Effects) : (s.complete (.ok e)).readData = s.readData := rfl
@[simp] theorem State.complete_ok_freeCount (e : Effects) : (s.complete (.ok e)).freeCount = s.freeCount := rfl

/-- A completion with error is the taking of the error. -/
@[simp] theorem State.complete_err (c : ErrCode) (info : Word) :
    s.complete (.err c info) = s.takeError c info := rfl

/-- A raise is an error with its ERRINFO as a word. -/
theorem raise_eq (c : ErrCode) (info : Nat) : raise c info = .err c (BitVec.ofNat 32 info) := rfl

/-! ### The view -/

@[simp] theorem State.view_of_pending (p : Pending) (h : s.pending = some p) :
    s.view = p.snapshot := by simp [State.view, h]

@[simp] theorem State.view_of_idle (h : s.pending = none) : s.view = ⟨s.g, s.buf⟩ := by
  simp [State.view, h]

@[simp] theorem State.view_accept (w : Word) : (s.accept w).view = ⟨s.g, s.buf⟩ := rfl

end Updates

end Sys2Proof.Machine
end

