-- ==== Sys2Proof/Laws/HostProgram.lean ====
section
/-! SUPPORT. What the end of a run is (70_reset_and_hazards.md R356): the observation is that of an idle
core, and nothing but a further CMD changes it. -/

namespace Sys2Proof.Machine

/-- What an event can do to a run's observation: a CMD write drops it, a STATUS read of an idle core after
a CMD makes it, and every other event keeps it. -/
theorem BusRun.after_cases (b : BusRun) (e : Event) (s : State) :
    (e.writesCmd = true ∧ (b.after e s).waiting = true ∧ (b.after e s).observed = none) ∨
      (e.writesCmd = false ∧ b.waiting = true ∧ e.readsStatus = true ∧ s.busy = false ∧
        (b.after e s).waiting = false ∧ (b.after e s).observed = some s.observe) ∨
      (e.writesCmd = false ∧ (b.after e s).waiting = b.waiting ∧
        (b.after e s).observed = b.observed) := by
  unfold BusRun.after
  cases hc : e.writesCmd with
  | true => exact .inl ⟨rfl, rfl, rfl⟩
  | false =>
    by_cases hr : (b.waiting && e.readsStatus && !s.busy) = true
    · have h := hr
      simp only [Bool.and_eq_true, Bool.not_eq_true'] at h
      exact .inr (.inl ⟨rfl, h.1.1, h.1.2, h.2, by simp [hr], by simp [hr]⟩)
    · exact .inr (.inr ⟨rfl, by simp [hr], by simp [hr]⟩)

@[simp] theorem BusRun.after_core (b : BusRun) (e : Event) (s : State) : (b.after e s).core = s := by
  unfold BusRun.after
  split_ifs <;> rfl

/-- Once a run has made its observation, events without a CMD write leave it as it is: a later SETG, BUFW
or CLRST is not seen. -/
theorem runEvents_observed_kept (es : List Event) :
    ∀ {b b' : BusRun}, (∀ e ∈ es, e.writesCmd = false) → b.waiting = false →
      runEvents es b = .next b' → b'.waiting = false ∧ b'.observed = b.observed := by
  induction es with
  | nil => intro b b' _ hw h; cases h; exact ⟨hw, rfl⟩
  | cons e rest ih =>
    intro b b' hcmd hw h
    unfold runEvents at h
    split at h
    · rename_i s _
      rcases b.after_cases e s with ⟨hc, -⟩ | ⟨-, hb, -⟩ | ⟨-, hb, ho⟩
      · simp [hcmd e (by simp)] at hc
      · simp [hw] at hb
      · have := ih (fun e' he' => hcmd e' (by simp [he'])) (hb.trans hw) h
        exact ⟨this.1, this.2.trans ho⟩
    · cases h
    · cases h

/-- An over run's observation is the one its bus holds. -/
theorem HostRun.finish_over {h h' : HostRun} {seen : Observation} (hf : h.finish = .over seen h') :
    h' = h ∧ h.bus.observed = some seen := by
  unfold HostRun.finish at hf
  split at hf
  · rename_i o ho
    cases hf
    exact ⟨rfl, ho⟩
  · cases hf

/-- What two or more groups can do: stop after the first when it ended in error, else go on with the rest
(30_encoding.md R113). -/
theorem runGroups_cases {g g' : List Event} {rest : List (List Event)} {b b' : BusRun}
    (h : runGroups (g :: g' :: rest) b = .next b') :
    ∃ b1, runEvents g b = .next b1 ∧
      ((b1.sawErr = true ∧ b' = b1) ∨
        (b1.sawErr = false ∧ runGroups (g' :: rest) b1 = .next b')) := by
  rw [runGroups] at h
  · split at h
    · rename_i b1 h1
      refine ⟨b1, h1, ?_⟩
      cases he : b1.sawErr with
      | true => simp only [he, if_true] at h; cases h; exact .inl ⟨rfl, rfl⟩
      | false => exact .inr ⟨rfl, by simpa [he] using h⟩
    · cases h
    · cases h
  · simp

end Sys2Proof.Machine
end

