-- ==== Sys2Proof/Laws/Memory.lean ====
section
/-! SUPPORT. The laws of BUF: a read after a write, the bytes a write leaves alone, and the canonical
form that every memory operation keeps (20_memory.md R75, R80). -/

namespace Sys2Proof.Machine

/-! ### The canonical form -/

theorem Memory.wfFrom_mono {lo lo' : Nat} (h : lo' ≤ lo) :
    ∀ {m : Memory}, Memory.wfFrom lo m = true → Memory.wfFrom lo' m = true
  | [], _ => rfl
  | (k, b) :: rest, hm => by
    simp only [Memory.wfFrom, Bool.and_eq_true, decide_eq_true_eq] at hm ⊢
    exact ⟨⟨by omega, hm.1.2⟩, hm.2⟩

/-- An address below every listed one reads as unlisted. -/
theorem Memory.read_of_wfFrom {lo a : Nat} (ha : a < lo) :
    ∀ {m : Memory}, Memory.wfFrom lo m = true → m.read a = Config.unlistedByte
  | [], _ => rfl
  | (k, b) :: rest, hm => by
    simp only [Memory.wfFrom, Bool.and_eq_true, decide_eq_true_eq] at hm
    have hk : k ≠ a := by omega
    simp only [Memory.read, hk, if_false]
    exact Memory.read_of_wfFrom (by omega) hm.2

theorem Memory.wfFrom_write {lo a : Nat} (ha : lo ≤ a) (v : Byte) :
    ∀ {m : Memory}, Memory.wfFrom lo m = true → Memory.wfFrom lo (m.write a v) = true
  | [], _ => by
    by_cases hv : v = Config.unlistedByte <;> simp [Memory.write, Memory.wfFrom, hv, ha]
  | (k, b) :: rest, hm => by
    have hm' := hm
    simp only [Memory.wfFrom, Bool.and_eq_true, decide_eq_true_eq] at hm'
    obtain ⟨⟨hlo, hb⟩, hrest⟩ := hm'
    rcases Nat.lt_trichotomy a k with h | h | h
    · by_cases hv : v = Config.unlistedByte
      · simpa [Memory.write, h, hv] using hm
      · simp only [Memory.write, h, if_true, hv, if_false, Memory.wfFrom, Bool.and_eq_true,
          decide_eq_true_eq, bne_iff_ne, ne_eq, not_false_eq_true, and_true]
        exact ⟨ha, ⟨by omega, by simpa using hb⟩, hrest⟩
    · subst h
      by_cases hv : v = Config.unlistedByte
      · simp only [Memory.write, Nat.lt_irrefl, if_false, if_true, hv]
        exact Memory.wfFrom_mono (by omega) hrest
      · simp only [Memory.write, Nat.lt_irrefl, if_false, if_true, hv, Memory.wfFrom,
          Bool.and_eq_true, decide_eq_true_eq, bne_iff_ne, ne_eq, not_false_eq_true, and_true]
        exact ⟨ha, hrest⟩
    · have h1 : ¬ a < k := by omega
      have h2 : a ≠ k := by omega
      simp only [Memory.write, h1, h2, if_false, Memory.wfFrom, Bool.and_eq_true,
        decide_eq_true_eq]
      exact ⟨⟨hlo, hb⟩, Memory.wfFrom_write (by omega) v hrest⟩

/-- One byte written keeps the canonical form. -/
theorem Memory.wf_write {m : Memory} (a : Nat) (v : Byte) (hm : m.wf = true) :
    (m.write a v).wf = true := Memory.wfFrom_write (Nat.zero_le a) v hm

/-- A byte string written keeps the canonical form. -/
theorem Memory.wf_writeBytes (bs : List Byte) :
    ∀ {m : Memory} (a : Nat), m.wf = true → (m.writeBytes a bs).wf = true := by
  induction bs with
  | nil => intro m a hm; exact hm
  | cons b rest ih => intro m a hm; exact ih (a + 1) (Memory.wf_write a b hm)

/-! ### Addresses below BUF_SIZE -/

theorem Memory.below_write {size a : Nat} (ha : a < size) (v : Byte) :
    ∀ {m : Memory}, m.below size = true → (m.write a v).below size = true
  | [], _ => by
    by_cases hv : v = Config.unlistedByte <;> simp [Memory.write, Memory.below, hv, ha]
  | (k, b) :: rest, hm => by
    have hm' := hm
    simp only [Memory.below, List.all_cons, Bool.and_eq_true, decide_eq_true_eq] at hm'
    have ih := Memory.below_write ha v (m := rest) hm'.2
    unfold Memory.write
    simp only [Memory.below] at *
    split_ifs <;> simp_all <;> first | exact hm'.2 | exact ih

theorem Memory.below_writeBytes {size : Nat} (bs : List Byte) :
    ∀ {m : Memory} (a : Nat), (bs = [] ∨ a + bs.length ≤ size) → m.below size = true →
      (m.writeBytes a bs).below size = true := by
  induction bs with
  | nil => intro m a _ hm; exact hm
  | cons b rest ih =>
    intro m a h hm
    simp only [List.length_cons, reduceCtorEq, false_or] at h
    exact ih (a + 1) (Or.inr (by omega)) (Memory.below_write (by omega) b hm)

/-! ### Read after write -/

/-- A write leaves every other byte alone. -/
theorem Memory.read_write_other {a b : Nat} (h : b ≠ a) (v : Byte) :
    ∀ m : Memory, (m.write a v).read b = m.read b
  | [] => by
    by_cases hv : v = Config.unlistedByte <;> simp [Memory.write, Memory.read, hv, Ne.symm h]
  | (k, x) :: rest => by
    have ih := Memory.read_write_other h v rest
    unfold Memory.write
    split_ifs with h1 h2 h3 h4
    · rfl
    · simp [Memory.read, Ne.symm h]
    · subst h3; simp [Memory.read, Ne.symm h]
    · subst h3; simp [Memory.read, Ne.symm h]
    · simp only [Memory.read, ih]

theorem Memory.read_write_same_from {lo a : Nat} (v : Byte) :
    ∀ {m : Memory}, Memory.wfFrom lo m = true → (m.write a v).read a = v
  | [], _ => by
    by_cases hv : v = Config.unlistedByte <;> simp [Memory.write, Memory.read, hv]
  | (k, x) :: rest, hm => by
    have hm' := hm
    simp only [Memory.wfFrom, Bool.and_eq_true, decide_eq_true_eq] at hm'
    have ih := Memory.read_write_same_from (a := a) v hm'.2
    unfold Memory.write
    split_ifs with h1 h2 h3 h4
    · rw [h2]
      exact Memory.read_of_wfFrom (lo := k) h1
        (by simp only [Memory.wfFrom, Bool.and_eq_true, decide_eq_true_eq]
            exact ⟨⟨Nat.le_refl k, hm'.1.2⟩, hm'.2⟩)
    · simp [Memory.read]
    · rw [h4]; exact Memory.read_of_wfFrom (lo := k + 1) (by omega) hm'.2
    · simp [Memory.read]
    · have : k ≠ a := fun e => h3 e.symm
      simp only [Memory.read, this, if_false, ih]

/-- A read after a write to the same place gives the byte written. -/
theorem Memory.read_write_same {m : Memory} (a : Nat) (v : Byte) (hm : m.wf = true) :
    (m.write a v).read a = v := Memory.read_write_same_from v hm

/-- A byte string written leaves every byte outside it alone. -/
theorem Memory.read_writeBytes_other (bs : List Byte) :
    ∀ (m : Memory) (a b : Nat), b < a ∨ a + bs.length ≤ b →
      (m.writeBytes a bs).read b = m.read b := by
  induction bs with
  | nil => intro m a b _; rfl
  | cons x rest ih =>
    intro m a b h
    simp only [List.length_cons] at h
    rw [Memory.writeBytes, ih _ _ _ (by omega), Memory.read_write_other (by omega)]

/-- The byte written at place t of a byte string. -/
theorem Memory.read_writeBytes_same (bs : List Byte) :
    ∀ (m : Memory) (a t : Nat), m.wf = true → (ht : t < bs.length) →
      (m.writeBytes a bs).read (a + t) = bs[t] := by
  induction bs with
  | nil => intro m a t _ ht; exact absurd ht (by simp)
  | cons x rest ih =>
    intro m a t hm ht
    cases t with
    | zero =>
      rw [Memory.writeBytes, Memory.read_writeBytes_other _ _ _ _ (by omega)]
      exact Memory.read_write_same a x hm
    | succ t =>
      have := ih (m.write a x) (a + 1) t (Memory.wf_write a x hm) (by simpa using ht)
      simpa [Memory.writeBytes, Nat.add_assoc, Nat.add_comm 1] using this

@[simp] theorem Memory.length_readBytes (m : Memory) (a n : Nat) : (m.readBytes a n).length = n := by
  simp [Memory.readBytes]

/-- MemRead after MemWrite of the same region gives the string written. -/
theorem Memory.readBytes_writeBytes {m : Memory} (a : Nat) (bs : List Byte) (hm : m.wf = true) :
    (m.writeBytes a bs).readBytes a bs.length = bs := by
  apply List.ext_getElem (by simp)
  intro t h1 h2
  simp only [Memory.readBytes, List.getElem_map, List.getElem_range]
  exact Memory.read_writeBytes_same bs m a t hm h2

/-! ### General registers -/

theorem Regs.read_write_same (g : Regs) (r : Reg) (v : Word) : (g.write r v).read r = v := by
  simp [Regs.read, Regs.write]

theorem Regs.read_write_other (g : Regs) {r q : Reg} (v : Word) (h : q ≠ r) :
    (g.write r v).read q = g.read q := by
  have : (r : Nat) ≠ q := fun e => h (Fin.ext e.symm)
  simp [Regs.read, Regs.write, this]

/-- A register that no write of the list names keeps its value. -/
theorem Regs.read_writeAll_other (ws : List (Reg × Word)) :
    ∀ (g : Regs) (q : Reg), q ∉ ws.map (·.1) → (g.writeAll ws).read q = g.read q := by
  induction ws with
  | nil => intro g q _; rfl
  | cons w rest ih =>
    intro g q h
    simp only [List.map_cons, List.mem_cons, not_or] at h
    have := ih (g.write w.1 w.2) q h.2
    simpa [Regs.writeAll, Regs.read_write_other g w.2 h.1] using this

end Sys2Proof.Machine
end

