-- ==== Sys2Proof/Laws/Ops.lean ====
section
/-! SUPPORT. For each shared operation, once, what it can do: the region checks, completion, the rule
runner, dispatch, the engine and the host accesses. -/

namespace Sys2Proof.Machine

/-! ### Region checks -/

/-- The first out-of-range region: nothing when every region is in range. -/
theorem firstOutOfRange_eq_none (size : Nat) (rs : List (Nat × Nat)) :
    firstOutOfRange size rs = none ↔ ∀ r ∈ rs, inRange size r = true := by
  induction rs with
  | nil => simp [firstOutOfRange]
  | cons r rest ih =>
    cases h : inRange size r <;> simp [firstOutOfRange, h, ih]

/-- A checked body runs when every region is in range, and nothing else happens before it. -/
theorem withRegions_of_inRange {size : Nat} {rs : List (Nat × Nat)} {body : Result}
    (h : ∀ r ∈ rs, inRange size r = true) : withRegions size rs body = body := by
  simp [withRegions, (firstOutOfRange_eq_none size rs).2 h]

/-- What a checked body can answer: BUF_RANGE with the start of a listed region that is out of range,
or the body's own answer. -/
theorem withRegions_cases (size : Nat) (rs : List (Nat × Nat)) (body : Result) :
    (∃ a, firstOutOfRange size rs = some a ∧
        withRegions size rs body = .err .bufRange (BitVec.ofNat 32 a)) ∨
      (firstOutOfRange size rs = none ∧ withRegions size rs body = body) := by
  cases h : firstOutOfRange size rs with
  | none => exact .inr ⟨rfl, by simp [withRegions, h]⟩
  | some a => exact .inl ⟨a, rfl, by simp [withRegions, h, raise_eq]⟩

theorem inRange_iff (size a m : Nat) : inRange size (a, m) = true ↔ m = 0 ∨ a + m ≤ size := by
  simp [inRange]

/-- Reset BUF is canonical. -/
theorem reset_buf_wf : State.reset.buf.wf = true := rfl

/-! ### Running a rule -/

/-- A rule's run is the completion of its result. -/
theorem runRule_eq (rule : Nat → Snapshot → Result) (s : State) :
    runRule rule s = .next (s.complete (rule s.bufSize s.view)) := rfl

/-- What a completion can do: apply the effects and clear the error record, or take the error and
write nothing else. -/
theorem complete_cases (s : State) (r : Result) :
    (∃ e, r = .ok e ∧ s.complete r = (s.applyEffects e).flagsOk.retire) ∨
      (∃ c info, r = .err c info ∧ s.complete r = s.takeError c info) := by
  cases r with
  | ok e => exact .inl ⟨e, rfl, rfl⟩
  | err c info => exact .inr ⟨c, info, rfl, rfl⟩

/-! ### Dispatch, engine and bus -/

/-- Every command completes: exec answers the completion of some result, never a stop. -/
theorem exec_eq_complete (i : Instr) (s : State) : ∃ r, exec i s = .next (s.complete r) := by
  cases i <;> exact ⟨_, rfl⟩

/-- What running a word can do: the decoded command's meaning, or ILLEGAL_COMMAND with the word. -/
theorem runWord_cases (w : Word) (s : State) :
    (∃ i, decode w = .ok i ∧ runWord w s = exec i s) ∨
      (∃ e, decode w = .error e ∧ runWord w s = .next (s.takeError .illegalCommand w)) := by
  cases h : decode w with
  | ok i => exact .inl ⟨i, rfl, by simp [runWord, h]⟩
  | error e => exact .inr ⟨e, rfl, by simp [runWord, h]⟩

/-- What the engine can do: keep everything when no command is pending, else complete it. -/
theorem engineMove_cases (s : State) :
    (s.pending = none ∧ engineMove s = .next s) ∨
      (∃ p r, s.pending = some p ∧ engineMove s = .next (s.complete r)) := by
  cases h : s.pending with
  | none => exact .inl ⟨rfl, by simp [engineMove, h]⟩
  | some p =>
    refine .inr ⟨p, ?_⟩
    rcases runWord_cases p.word s with ⟨i, -, hr⟩ | ⟨e, -, hr⟩
    · obtain ⟨r, hx⟩ := exec_eq_complete i s
      exact ⟨r, rfl, by simp [engineMove, h, hr, hx]⟩
    · exact ⟨.err .illegalCommand p.word, rfl, by simp [engineMove, h, hr]⟩

/-- A host access that goes through is 32-bit, aligned and inside the window, and has its effect. -/
theorem hostAccess_next {s t : State} {offset bytes : Nat} {effect : Target → State}
    (h : hostAccess s offset bytes effect = .next t) :
    bytes = 4 ∧ offset % 4 = 0 ∧ offset < 0x1000 + s.bufSize ∧ t = effect (targetOf offset) := by
  unfold hostAccess at h
  split_ifs at h with h1 h2 h3
  · cases h
    exact ⟨not_not.1 h1, not_not.1 h2, Nat.lt_of_not_le h3, rfl⟩

/-- A 32-bit aligned access inside the window goes through. -/
theorem hostAccess_ok {s : State} {offset : Nat} {effect : Target → State} (ha : offset % 4 = 0)
    (hw : offset < 0x1000 + s.bufSize) :
    hostAccess s offset 4 effect = .next (effect (targetOf offset)) := by
  have : ¬ 0x1000 + s.bufSize ≤ offset := by omega
  simp [hostAccess, ha, this]

/-- A step with nothing to come is the engine's. -/
theorem step_idle {s : State} (h : s.inputs = []) : step s = engineMove s := by
  simp [step, nextStep, h]

/-- A step takes the first event to come. -/
theorem step_event {s : State} {e : Event} {rest : List Event} (h : s.inputs = e :: rest) :
    step s = takeEvent e { s with inputs := rest } := by
  simp [step, nextStep, h]

end Sys2Proof.Machine
end

