-- ==== Sys2Proof/Laws/PerInstr.lean ====
section
/-! SUPPORT. Statements about every command as syntax, with one lemma per constructor of Instr. -/

namespace Sys2Proof.Laws

/-- A command's encoding has the match bits of its own row of the opcode table, and no command's
mnemonic is missing from the table (30_encoding.md R108). -/
def RowOpcode.Statement (i : Instr) : Prop :=
  ∃ row ∈ opcodeTable, row.mnemonic = i.mnemonic ∧
    opField (encode i) = row.pattern.extractLsb' 24 8

theorem RowOpcode.ofR {op : Byte} {rd a b : Reg} {i : Instr} (row : OpcodeRow)
    (hi : encode i = encodeR op rd a b) (hm : row ∈ opcodeTable) (hn : row.mnemonic = i.mnemonic)
    (ho : row.pattern.extractLsb' 24 8 = op) : RowOpcode.Statement i :=
  ⟨row, hm, hn, by rw [hi, ho, encodeR_eq_encodeI]; exact extract_encodeI_op op rd a b 0⟩

theorem RowOpcode.ofI {op : Byte} {rd a b : Reg} {off : Nat} {i : Instr} (row : OpcodeRow)
    (hi : encode i = encodeI op rd a b off) (hm : row ∈ opcodeTable)
    (hn : row.mnemonic = i.mnemonic) (ho : row.pattern.extractLsb' 24 8 = op) :
    RowOpcode.Statement i :=
  ⟨row, hm, hn, by rw [hi, ho]; exact extract_encodeI_op op rd a b off⟩

theorem RowOpcode.ofU {op : Byte} {rd : Reg} {imm : Nat} {i : Instr} (row : OpcodeRow)
    (hi : encode i = encodeU op rd imm) (hm : row ∈ opcodeTable) (hn : row.mnemonic = i.mnemonic)
    (ho : row.pattern.extractLsb' 24 8 = op) : RowOpcode.Statement i :=
  ⟨row, hm, hn, by rw [hi, ho]; exact extract_encodeU_op op rd imm⟩

theorem RowOpcode.ofB {op : Byte} {rd : Reg} {imm : BitVec 12} {i : Instr} (row : OpcodeRow)
    (hi : encode i = encodeB op rd imm) (hm : row ∈ opcodeTable) (hn : row.mnemonic = i.mnemonic)
    (ho : row.pattern.extractLsb' 24 8 = op) : RowOpcode.Statement i :=
  ⟨row, hm, hn, by rw [hi, ho]; exact extract_encodeB_op op rd imm⟩

theorem RowOpcode.nop : RowOpcode.Statement (.nop) :=
  RowOpcode.ofR ⟨"NOP", 0x00000000, 0xFFFFFFFF⟩ rfl (by decide) rfl rfl

theorem RowOpcode.li (rd : Reg) (imm : Nat) : RowOpcode.Statement (.li rd imm) :=
  RowOpcode.ofU ⟨"LI", 0x01000000, 0xFF0F0000⟩ rfl (by decide) rfl rfl

theorem RowOpcode.lih (rd : Reg) (imm : Nat) : RowOpcode.Statement (.lih rd imm) :=
  RowOpcode.ofU ⟨"LIH", 0x02000000, 0xFF0F0000⟩ rfl (by decide) rfl rfl

theorem RowOpcode.mov (rd a : Reg) : RowOpcode.Statement (.mov rd a) :=
  RowOpcode.ofR ⟨"MOV", 0x03000000, 0xFF00FFFF⟩ rfl (by decide) rfl rfl

theorem RowOpcode.ldb (rd a : Reg) (off : Nat) : RowOpcode.Statement (.ldb rd a off) :=
  RowOpcode.ofI ⟨"LDB", 0x04000000, 0xFF00F000⟩ rfl (by decide) rfl rfl

theorem RowOpcode.stb (a b : Reg) (off : Nat) : RowOpcode.Statement (.stb a b off) :=
  RowOpcode.ofI ⟨"STB", 0x05000000, 0xFFF00000⟩ rfl (by decide) rfl rfl

theorem RowOpcode.ldh (rd a : Reg) (off : Nat) : RowOpcode.Statement (.ldh rd a off) :=
  RowOpcode.ofI ⟨"LDH", 0x06000000, 0xFF00F000⟩ rfl (by decide) rfl rfl

theorem RowOpcode.sth (a b : Reg) (off : Nat) : RowOpcode.Statement (.sth a b off) :=
  RowOpcode.ofI ⟨"STH", 0x07000000, 0xFFF00000⟩ rfl (by decide) rfl rfl

theorem RowOpcode.wipe : RowOpcode.Statement (.wipe) :=
  RowOpcode.ofB ⟨"WIPE", 0x08000000, 0xFFFFFFFF⟩ rfl (by decide) rfl rfl

theorem RowOpcode.gf8Add (rd a b : Reg) : RowOpcode.Statement (.gf8Add rd a b) :=
  RowOpcode.ofR ⟨"GF8.ADD", 0x10000000, 0xFF000FFF⟩ rfl (by decide) rfl rfl

theorem RowOpcode.gf8Mul (rd a b : Reg) : RowOpcode.Statement (.gf8Mul rd a b) :=
  RowOpcode.ofR ⟨"GF8.MUL", 0x11000000, 0xFF000FFF⟩ rfl (by decide) rfl rfl

theorem RowOpcode.gf8Inv (rd a : Reg) : RowOpcode.Statement (.gf8Inv rd a) :=
  RowOpcode.ofR ⟨"GF8.INV", 0x12000000, 0xFF00FFFF⟩ rfl (by decide) rfl rfl

theorem RowOpcode.gf8Pow (rd a b : Reg) : RowOpcode.Statement (.gf8Pow rd a b) :=
  RowOpcode.ofR ⟨"GF8.POW", 0x13000000, 0xFF000FFF⟩ rfl (by decide) rfl rfl

theorem RowOpcode.gf8Exp (rd a : Reg) : RowOpcode.Statement (.gf8Exp rd a) :=
  RowOpcode.ofR ⟨"GF8.EXP", 0x14000000, 0xFF00FFFF⟩ rfl (by decide) rfl rfl

theorem RowOpcode.gf8Log (rd a : Reg) : RowOpcode.Statement (.gf8Log rd a) :=
  RowOpcode.ofR ⟨"GF8.LOG", 0x15000000, 0xFF00FFFF⟩ rfl (by decide) rfl rfl

theorem RowOpcode.gf10Add (rd a b : Reg) : RowOpcode.Statement (.gf10Add rd a b) :=
  RowOpcode.ofR ⟨"GF10.ADD", 0x20000000, 0xFF000FFF⟩ rfl (by decide) rfl rfl

theorem RowOpcode.gf10Mul (rd a b : Reg) : RowOpcode.Statement (.gf10Mul rd a b) :=
  RowOpcode.ofR ⟨"GF10.MUL", 0x21000000, 0xFF000FFF⟩ rfl (by decide) rfl rfl

theorem RowOpcode.gf10Inv (rd a : Reg) : RowOpcode.Statement (.gf10Inv rd a) :=
  RowOpcode.ofR ⟨"GF10.INV", 0x22000000, 0xFF00FFFF⟩ rfl (by decide) rfl rfl

theorem RowOpcode.gf10Pow (rd a b : Reg) : RowOpcode.Statement (.gf10Pow rd a b) :=
  RowOpcode.ofR ⟨"GF10.POW", 0x23000000, 0xFF000FFF⟩ rfl (by decide) rfl rfl

theorem RowOpcode.sssInterp : RowOpcode.Statement (.sssInterp) :=
  RowOpcode.ofB ⟨"SSS.INTERP", 0x30000000, 0xFFFFFFFF⟩ rfl (by decide) rfl rfl

theorem RowOpcode.sssDigest (rd : Reg) : RowOpcode.Statement (.sssDigest rd) :=
  RowOpcode.ofB ⟨"SSS.DIGEST", 0x31000000, 0xFF0FFFFF⟩ rfl (by decide) rfl rfl

theorem RowOpcode.sssSplit : RowOpcode.Statement (.sssSplit) :=
  RowOpcode.ofB ⟨"SSS.SPLIT", 0x32000000, 0xFFFFFFFF⟩ rfl (by decide) rfl rfl

theorem RowOpcode.sssRecon : RowOpcode.Statement (.sssRecon) :=
  RowOpcode.ofB ⟨"SSS.RECON", 0x33000000, 0xFFFFFFFF⟩ rfl (by decide) rfl rfl

theorem RowOpcode.fstRound (round : Nat) : RowOpcode.Statement (.fstRound round) :=
  RowOpcode.ofB ⟨"FST.ROUND", 0x40000000, 0xFFFFFF00⟩ rfl (by decide) rfl rfl

theorem RowOpcode.fstEnc : RowOpcode.Statement (.fstEnc) :=
  RowOpcode.ofB ⟨"FST.ENC", 0x41000000, 0xFFFFFFFF⟩ rfl (by decide) rfl rfl

theorem RowOpcode.fstDec : RowOpcode.Statement (.fstDec) :=
  RowOpcode.ofB ⟨"FST.DEC", 0x42000000, 0xFFFFFFFF⟩ rfl (by decide) rfl rfl

theorem RowOpcode.rsPolymod (rd : Reg) : RowOpcode.Statement (.rsPolymod rd) :=
  RowOpcode.ofB ⟨"RS.POLYMOD", 0x50000000, 0xFF0FFFFF⟩ rfl (by decide) rfl rfl

theorem RowOpcode.rsCreate (rd : Reg) (ext : Bool) : RowOpcode.Statement (.rsCreate rd ext) :=
  RowOpcode.ofB ⟨"RS.CREATE", 0x51000000, 0xFF0FFFFE⟩ rfl (by decide) rfl rfl

theorem RowOpcode.rsVerify (rd : Reg) (ext : Bool) : RowOpcode.Statement (.rsVerify rd ext) :=
  RowOpcode.ofB ⟨"RS.VERIFY", 0x52000000, 0xFF0FFFFE⟩ rfl (by decide) rfl rfl

theorem RowOpcode.codecEnc (rd : Reg) : RowOpcode.Statement (.codecEnc rd) :=
  RowOpcode.ofB ⟨"CODEC.ENC", 0x60000000, 0xFF0FFFFF⟩ rfl (by decide) rfl rfl

theorem RowOpcode.codecDec : RowOpcode.Statement (.codecDec) :=
  RowOpcode.ofB ⟨"CODEC.DEC", 0x61000000, 0xFFFFFFFF⟩ rfl (by decide) rfl rfl

end Sys2Proof.Laws
end

