-- ==== Sys2Proof/Laws/Sha256.lean ====
section
/-! SUPPORT. The constants of SHA-256 are what FIPS 180-4 derives them from: the fractional parts of
square and cube roots of the first primes (log 12). -/

namespace Sys2Proof.Machine

/-- The primes below n, n at most 400, by trial division. -/
def primesBelow (n : Nat) : List Nat :=
  (List.range n).filter fun p =>
    2 ≤ p && (List.range 20).all fun d => d < 2 || p ≤ d || p % d != 0

/-- w holds the first 32 bits of the fractional part of the k-th root of p, a root below 18. -/
def isRootFraction (k p : Nat) (w : Word) : Bool :=
  (List.range 18).any fun whole =>
    let r := whole * 2 ^ 32 + w.toNat
    r ^ k ≤ p * 2 ^ (32 * k) && p * 2 ^ (32 * k) < (r + 1) ^ k

/-- The round constants are cube roots of the first 64 primes (FIPS 180-4, section 4.2.2). -/
theorem shaK_cube_roots : shaK.length = 64 ∧ (primesBelow 312).length = 64 ∧
    ((primesBelow 312).zip shaK).all (fun c => isRootFraction 3 c.1 c.2) = true := by
  decide +kernel

/-- The initial hash value is square roots of the first eight primes (FIPS 180-4, section 5.3.3). -/
theorem shaInit_square_roots : (primesBelow 20).length = 8 ∧
    ((primesBelow 20).zip shaInit.words).all (fun c => isRootFraction 2 c.1 c.2) = true := by
  decide +kernel

/-! ### Lengths -/

@[simp] theorem length_bytesOfWord (v : Word) : (bytesOfWord v).length = 4 := rfl

@[simp] theorem length_xorBytes (a b : List Byte) :
    (xorBytes a b).length = min a.length b.length := by simp [xorBytes]

/-- A SHA-256 value has 32 bytes. -/
@[simp] theorem length_sha256 (msg : List Byte) : (sha256 msg).length = 32 := by
  simp [sha256, ShaState.words, bytesOfWord]

/-- An HMAC-SHA256 value has 32 bytes (00_scope.md R12). -/
@[simp] theorem length_hmacSha256 (key msg : List Byte) : (hmacSha256 key msg).length = 32 := by
  simp [hmacSha256]

theorem length_pbkdf2Iterate (password : List Byte) (n : Nat) :
    ∀ u acc : List Byte, acc.length = 32 → (pbkdf2Iterate password n u acc).length = 32 := by
  induction n with
  | zero => intro u acc h; exact h
  | succ n ih => intro u acc h; exact ih _ _ (by simp [h])

/-- A block of PBKDF2 has 32 bytes. -/
@[simp] theorem length_pbkdf2Block (password salt : List Byte) (c i : Nat) :
    (pbkdf2Block password salt c i).length = 32 :=
  length_pbkdf2Iterate _ _ _ _ (length_hmacSha256 _ _)

/-- PBKDF2 gives as many bytes as it is asked for (00_scope.md R12). -/
@[simp] theorem length_pbkdf2 (password salt : List Byte) (c dkLen : Nat) :
    (pbkdf2 password salt c dkLen).length = dkLen := by
  simp only [pbkdf2, List.length_take, List.length_flatMap, length_pbkdf2Block, List.map_const',
    List.sum_replicate, List.length_range, smul_eq_mul]
  omega

end Sys2Proof.Machine
end

