-- ==== Sys2Proof/Tests/Slice0.lean ====
section
/-! SUPPORT. Small tests: every expected value is the spec's (95_test_vectors.md unless a comment names
another rule), and a witness for the hypotheses of each statement. -/

namespace Sys2Proof.Tests

open Sys2Proof Sys2Proof.Machine

/-! ### Helpers -/

/-- The reset state with some registers and BUF strings set. -/
def start (regs : List (Reg × Word)) (mem : List (Nat × List Byte)) : State :=
  { State.reset with
    g := State.reset.g.writeAll regs
    buf := mem.foldl (fun m e => m.writeBytes e.1 e.2) [] }

/-- The next state, if the answer is one. -/
def nextOf (o : Host.Outcome State Fault Refusal) : Option State :=
  match o with
  | .next s => some s
  | .fault _ => none
  | .refused _ => none

/-- Register r after command i on state s. -/
def regAfter (i : Instr) (s : State) (r : Reg) : Option Word := (nextOf (exec i s)).map (·.g.read r)

/-- The n bytes of BUF from a after command i on state s. -/
def bytesAfter (i : Instr) (s : State) (a n : Nat) : Option (List Byte) :=
  (nextOf (exec i s)).map (·.buf.readBytes a n)

/-- STATUS and ERRINFO after command i on state s. -/
def recordAfter (i : Instr) (s : State) : Option (Word × Word) :=
  (nextOf (exec i s)).map fun t => (t.statusWord, t.errInfo)

/-- One unary or binary register command on G1, G2 into G3. -/
def onRegs (i : Instr) (a b : Word) : Option Word := regAfter i (start [(1, a), (2, b)] []) 3

/-- A word sequence as BUF bytes. -/
def seqBytes (ws : List Nat) : List Byte := bytesOfWords (ws.map (BitVec.ofNat 10))

/-- The 20 word indices of the official vector, V1.4. -/
def officialWords : List Nat :=
  [248, 288, 0, 0, 17, 753, 521, 840, 372, 497, 155, 670, 192, 448, 297, 249, 23, 173, 196, 496]

/-- The official share value, V1.3. -/
def officialValue : List Byte := bytesOfNat 16 0x11bc609d21747c49ba78c0701293e417

/-- The records x = 1 and x = 2 of V2.6.5. -/
def rec1 : List Byte := [0x01, 0x65, 0xDF, 0xDB, 0x14, 0x39]
@[inherit_doc rec1]
def rec2 : List Byte := [0x02, 0x71, 0x91, 0x77, 0x90, 0xCD]

/-! ### WellFormed: what an assembler refuses (30_encoding.md R111) -/

theorem test_wf_refuses_li : ¬ WellFormed (.li 1 65536) := by decide
theorem test_wf_refuses_lih : ¬ WellFormed (.lih 1 65536) := by decide
theorem test_wf_refuses_ldb : ¬ WellFormed (.ldb 1 2 4096) := by decide
theorem test_wf_refuses_stb : ¬ WellFormed (.stb 1 2 4096) := by decide
theorem test_wf_refuses_ldh : ¬ WellFormed (.ldh 1 2 4096) := by decide
theorem test_wf_refuses_sth : ¬ WellFormed (.sth 1 2 4096) := by decide
theorem test_wf_refuses_round : ¬ WellFormed (.fstRound 256) := by decide
theorem test_wf_accepts_largest :
    WellFormed (.li 15 65535) ∧ WellFormed (.sth 15 15 4095) ∧ WellFormed (.fstRound 255) := by decide

/-! ### Decoding: words written out field by field from 30_encoding.md R101 to R108 -/

/-- op | rd | rs1 | rs2 | imm12. -/
theorem test_decode_moves :
    decode (0x00#8 ++ 0#4 ++ 0#4 ++ 0#4 ++ 0x000#12) = .ok .nop ∧
    decode (0x01#8 ++ 1#4 ++ 0#4 ++ 0xBEEF#16) = .ok (.li 1 0xBEEF) ∧
    decode (0x02#8 ++ 1#4 ++ 0#4 ++ 0xDEAD#16) = .ok (.lih 1 0xDEAD) ∧
    decode (0x03#8 ++ 5#4 ++ 2#4 ++ 0#4 ++ 0x000#12) = .ok (.mov 5 2) ∧
    decode (0x04#8 ++ 2#4 ++ 1#4 ++ 0#4 ++ 0x005#12) = .ok (.ldb 2 1 5) ∧
    decode (0x05#8 ++ 0#4 ++ 1#4 ++ 3#4 ++ 0x002#12) = .ok (.stb 1 3 2) ∧
    decode (0x06#8 ++ 4#4 ++ 1#4 ++ 0#4 ++ 0xFFF#12) = .ok (.ldh 4 1 4095) ∧
    decode (0x07#8 ++ 0#4 ++ 1#4 ++ 2#4 ++ 0x001#12) = .ok (.sth 1 2 1) ∧
    decode (0x08#8 ++ 0#4 ++ 0#8 ++ 0x000#12) = .ok .wipe := by decide

theorem test_decode_gf8 :
    decode (0x10#8 ++ 3#4 ++ 1#4 ++ 2#4 ++ 0#12) = .ok (.gf8Add 3 1 2) ∧
    decode (0x11#8 ++ 3#4 ++ 1#4 ++ 2#4 ++ 0#12) = .ok (.gf8Mul 3 1 2) ∧
    decode (0x12#8 ++ 2#4 ++ 1#4 ++ 0#4 ++ 0#12) = .ok (.gf8Inv 2 1) ∧
    decode (0x13#8 ++ 3#4 ++ 1#4 ++ 2#4 ++ 0#12) = .ok (.gf8Pow 3 1 2) ∧
    decode (0x14#8 ++ 2#4 ++ 1#4 ++ 0#4 ++ 0#12) = .ok (.gf8Exp 2 1) ∧
    decode (0x15#8 ++ 2#4 ++ 1#4 ++ 0#4 ++ 0#12) = .ok (.gf8Log 2 1) := by decide

theorem test_decode_gf10 :
    decode (0x20#8 ++ 15#4 ++ 14#4 ++ 13#4 ++ 0#12) = .ok (.gf10Add 15 14 13) ∧
    decode (0x21#8 ++ 3#4 ++ 1#4 ++ 2#4 ++ 0#12) = .ok (.gf10Mul 3 1 2) ∧
    decode (0x22#8 ++ 2#4 ++ 1#4 ++ 0#4 ++ 0#12) = .ok (.gf10Inv 2 1) ∧
    decode (0x23#8 ++ 3#4 ++ 1#4 ++ 2#4 ++ 0#12) = .ok (.gf10Pow 3 1 2) := by decide

theorem test_decode_bulk :
    decode (0x30#8 ++ 0#4 ++ 0#8 ++ 0#12) = .ok .sssInterp ∧
    decode (0x31#8 ++ 7#4 ++ 0#8 ++ 0#12) = .ok (.sssDigest 7) ∧
    decode (0x32#8 ++ 0#4 ++ 0#8 ++ 0#12) = .ok .sssSplit ∧
    decode (0x33#8 ++ 0#4 ++ 0#8 ++ 0#12) = .ok .sssRecon ∧
    decode (0x40#8 ++ 0#4 ++ 0#8 ++ 0x0FF#12) = .ok (.fstRound 255) ∧
    decode (0x41#8 ++ 0#4 ++ 0#8 ++ 0#12) = .ok .fstEnc ∧
    decode (0x42#8 ++ 0#4 ++ 0#8 ++ 0#12) = .ok .fstDec ∧
    decode (0x50#8 ++ 9#4 ++ 0#8 ++ 0#12) = .ok (.rsPolymod 9) ∧
    decode (0x51#8 ++ 6#4 ++ 0#8 ++ 0#12) = .ok (.rsCreate 6 false) ∧
    decode (0x52#8 ++ 6#4 ++ 0#8 ++ 1#12) = .ok (.rsVerify 6 true) ∧
    decode (0x60#8 ++ 13#4 ++ 0#8 ++ 0#12) = .ok (.codecEnc 13) ∧
    decode (0x61#8 ++ 0#4 ++ 0#8 ++ 0#12) = .ok .codecDec := by decide

/-- No two rows of R108 share a word: their patterns differ where both masks look. -/
theorem test_opcode_rows_are_disjoint :
    opcodeTable.Pairwise fun a b => a.pattern &&& b.mask &&& a.mask ≠ b.pattern &&& b.mask &&& a.mask :=
  by decide

/-! ### Moves, loads, stores, wipe: section 2.3 -/

theorem test_nop_clears_the_record :
    (nextOf (exec .nop { State.reset with err := true, errCode := 0x11, errInfo := 7 })).map
      (fun t => (t.statusWord, t.errInfo)) = some (0x00000002, 0) := by decide
theorem test_li : regAfter (.li 1 1) (start [(1, 0xDEADBEEF)] []) 1 = some 1 := by decide
theorem test_lih : regAfter (.lih 1 0xDEAD) (start [(1, 0x0000BEEF)] []) 1 = some 0xDEADBEEF := by
  decide
theorem test_mov : regAfter (.mov 5 2) (start [(2, 0x12345678)] []) 5 = some 0x12345678 := by decide
theorem test_ldb : regAfter (.ldb 2 1 5) (start [(1, 0x100)] [(0x105, [0xCA])]) 2 = some 0xCA := by
  decide
/-- 2.3.4: the sum 2^32 does not wrap to address 0. -/
theorem test_ldb_does_not_wrap :
    recordAfter (.ldb 2 1 1) (start [(1, 0xFFFFFFFF)] []) = some (0x00001206, 0) := by decide
theorem test_stb :
    bytesAfter (.stb 1 3 2) (start [(1, 0x100), (3, 0xABCDEF53)] []) 0x101 3 = some [0, 0x53, 0] := by
  decide
theorem test_ldh :
    regAfter (.ldh 4 1 0) (start [(1, 0x200)] [(0x200, [0x03, 0xFF])]) 4 = some 0x3FF := by decide
theorem test_sth :
    bytesAfter (.sth 1 2 1) (start [(1, 0x200), (2, 0xFFFF1234)] []) 0x200 4 =
      some [0, 0x12, 0x34, 0] := by decide
/-- 46_move_load_store.md R290: STH at BUF_SIZE - 1 writes nothing. -/
theorem test_sth_at_the_end :
    recordAfter (.sth 1 2 0) (start [(1, 4095), (2, 0x1234)] []) = some (0x00001206, 4095) ∧
    bytesAfter (.sth 1 2 0) (start [(1, 4095), (2, 0x1234)] []) 4095 1 = some [0] := by decide
theorem test_wipe :
    bytesAfter .wipe (start [(1, 0x10), (2, 4)] [(0x0F, [9, 1, 2, 3, 4, 9])]) 0x0F 6 =
      some [9, 0, 0, 0, 0, 9] := by decide
theorem test_wipe_out_of_range :
    recordAfter .wipe (start [(1, 0xFFFFFFFF), (2, 2)] []) = some (0x00001206, 0xFFFFFFFF) ∧
    recordAfter .wipe (start [(1, 0xFFFFFFFF)] []) = some (0x00000002, 0) := by decide

/-! ### GF(2^8) and GF(2^10): sections 2.4 and 2.5 -/

theorem test_gf8_add : onRegs (.gf8Add 3 1 2) 0x1FF 0x101 = some 0xFE := by decide
theorem test_gf8_mul : onRegs (.gf8Mul 3 1 2) 0x57 0x83 = some 0xC1 := by decide
theorem test_gf8_mul_upper_bits : onRegs (.gf8Mul 3 1 2) 0x1FF 0x102 = some 0xE5 := by decide
theorem test_gf8_inv_and_pow :
    onRegs (.gf8Inv 3 1) 0x53 0 = some 0xCA ∧ onRegs (.gf8Pow 3 1 2) 0 0 = some 1 ∧
    onRegs (.gf8Pow 3 1 2) 0x07 0xFFFFFFFF = some 1 := by decide +kernel
theorem test_gf8_inv_zero :
    recordAfter (.gf8Inv 3 1) (start [(1, 0x100)] []) = some (0x00001106, 0x12) := by decide
theorem test_gf8_exp : onRegs (.gf8Exp 3 1) 0x80 0 = some 0xFB := by decide
theorem test_gf8_exp_last : onRegs (.gf8Exp 3 1) 0xFF 0 = some 1 := by decide
theorem test_gf8_log : onRegs (.gf8Log 3 1) 0x53 0 = some 0x30 := by decide
theorem test_gf8_log_zero :
    recordAfter (.gf8Log 3 1) (start [] []) = some (0x00001106, 0x15) := by decide
/-- 0x03 generates EXP8, and LOG8 inverts it (40_gf256.md R131). -/
theorem test_exp8_and_log8 : ∀ k : Fin 255,
    (log8 (exp8 (BitVec.ofNat 8 k.val))).toNat = k.val ∧
    exp8 (BitVec.ofNat 8 (k.val + 1)) = gf8Mul (exp8 (BitVec.ofNat 8 k.val)) 3 := by decide +kernel
theorem test_gf10_add : onRegs (.gf10Add 3 1 2) 0x3FF 0x155 = some 0x2AA := by decide
theorem test_gf10_mul : onRegs (.gf10Mul 3 1 2) 0x201 0x201 = some 0x113 := by decide
theorem test_gf10_mul_mixed : onRegs (.gf10Mul 3 1 2) 0x155 0x2AA = some 0x2E3 := by decide
theorem test_gf10_inv_and_pow :
    onRegs (.gf10Inv 3 1) 0x3FF 0 = some 0x183 ∧
    onRegs (.gf10Pow 3 1 2) 0x005 0xFFFFFFFF = some 0x055 := by decide +kernel
theorem test_gf10_inv_zero :
    recordAfter (.gf10Inv 3 1) (start [(1, 0x400)] []) = some (0x00001106, 0x22) := by decide
/-! ### Shamir engine: section 2.6 -/

/-- The operands of V2.6.1 with the given x. -/
def interpState (x : Word) : State :=
  start [(1, 0), (2, 2), (3, 1), (4, x), (5, 0x10)] [(0, [0x01, 0x05, 0x02, 0x07])]

theorem test_interp :
    bytesAfter .sssInterp (interpState 0) 0x10 2 = some [0xF2, 0] ∧
    recordAfter .sssInterp (interpState 256) = some (0x00001406, 4) := by decide +kernel
/-- The operands of V2.6.4: key A0, message 01 02 03 04 05. -/
def digestState : State :=
  start [(1, 0), (2, 1), (3, 0x10), (4, 5)] [(0, [0xA0]), (0x10, [1, 2, 3, 4, 5])]

theorem test_digest : regAfter (.sssDigest 7) digestState 7 = some 0x0D386778 := by decide +kernel

/-- The operands of V2.6.5 with thresholds and counts to choose, entropy from 0xA0. -/
def splitState (n T N : Word) (xs : List Byte) : State :=
  { start [(1, 0), (2, n), (3, T), (4, N), (5, 8), (6, 0x10)] [(0, [1, 2, 3, 4, 5]), (8, xs)] with
    entropyIn := [0xA0, 0xA1] }

/-- One draw, the pad A0. -/
theorem test_split :
    (nextOf (exec .sssSplit (splitState 5 2 3 [0, 1, 2]))).map
      (fun t => (t.buf.readBytes 0x10 18, t.entropyPos, t.entropyIn)) =
      some ([0x00, 0x69, 0xE5, 0xBF, 0x68, 0x9C] ++ rec1 ++ rec2, 1, [0xA1]) := by decide +kernel
/-- V2.6.7's shares at x = 0 and x = 1: 28 draws from 0x10, the auxiliary string before the padding. -/
theorem test_split_draw_order :
    (nextOf (exec .sssSplit
      { start [(1, 0), (2, 16), (3, 3), (4, 3), (5, 0x10), (6, 0x20)]
          [(0, bytesOfNat 16 0xbb54aac4b89dc868ba37d9cc21b2cece), (0x10, [0, 1, 2])] with
        entropyIn := (List.range 28).map fun t => BitVec.ofNat 8 (0x10 + t) })).map
      (fun t => (t.buf.readBytes 0x20 34, t.entropyPos, t.entropyIn)) =
      some ([0] ++ bytesOfNat 16 0x101112131415161718191a1b1c1d1e1f ++
        [1] ++ bytesOfNat 16 0xe2d91f9e8ca9fc5c860be5f01586fafa, 28, []) := by decide +kernel
/-- The operands of V2.6.8 on records at 0x16, output at 0x40. -/
def reconState (k n T : Word) (recs : List Byte) : State :=
  start [(1, 0x16), (2, k), (3, n), (4, T), (5, 0x40)] [(0x16, recs)]

/-- Two records in either order; one flipped bit. -/
theorem test_recon :
    bytesAfter .sssRecon (reconState 2 5 2 (rec2 ++ rec1)) 0x40 5 = some [1, 2, 3, 4, 5] ∧
    recordAfter .sssRecon (reconState 2 5 2 ([0x01, 0x64, 0xDF, 0xDB, 0x14, 0x39] ++ rec2)) =
      some (0x00000706, 0) := by decide +kernel
/-! ### The standards of 00_scope.md R12, and Feistel: sections 1.2 and 2.7. One FST command runs 2500
iterations or more, too many for a kernel check here. -/

/-- FIPS 180-4's example "abc". -/
theorem test_sha256 :
    sha256 [0x61, 0x62, 0x63] =
      bytesOfNat 32 0xba7816bf8f01cfea414140de5dae2223b00361a396177a9cb410ff61f20015ad := by
  decide +kernel
/-- PBKDF2-HMAC-SHA256 of "password", "salt" with 2 iterations, 20 bytes (the widely published vector).
-/
theorem test_pbkdf2 :
    pbkdf2 [0x70, 0x61, 0x73, 0x73, 0x77, 0x6F, 0x72, 0x64] [0x73, 0x61, 0x6C, 0x74] 2 20 =
      bytesOfNat 20 0xae4d0c95af6b46d32d0adff928f06dd02a303f8e := by decide +kernel
/-- The salt prefix for id 7945, ext 0 is 7368616d69721f09. -/
theorem test_salt_prefix : saltPrefix 7945 false = bytesOfNat 8 0x7368616d69721f09 := by decide
/-- 43_feistel.md R212: 2500 iterations at e = 0. -/
theorem test_iters : iters 0 = 2500 ∧ iters 15 = 2500 * 2 ^ 15 := by decide
/-- 43_feistel.md R215, worked by hand for the round function F(i, r) = r + i bytewise: from l = 10 and
r = 01 the rounds 0, 1, 2, 3 give 11, 13, 04 and 14, and the output is r || l. -/
theorem test_feistel_rounds :
    feistelEnc (fun i r => r.map (· + i)) [0x10, 0x01] = [0x14, 0x04] ∧
    feistelDec (fun i r => r.map (· + i)) [0x14, 0x04] = [0x10, 0x01] := by decide
/-- Feistel operands with e, id and ext to choose and L bytes of data. -/
def fstState (L e id ext : Word) : State :=
  start [(1, 0), (2, L), (3, 0x100), (4, 6), (5, e), (6, id), (7, ext), (8, 0x200)]
    [(0, [0xAB, 0xCD]), (0x100, [0x54, 0x52, 0x45, 0x5A, 0x4F, 0x52])]

theorem test_round_error : recordAfter (.fstRound 3) (fstState 2 16 0x8000 0) = some (0x00001406, 5) :=
  by decide
theorem test_enc_odd : recordAfter .fstEnc (fstState 15 0 0 0) = some (0x00001306, 2) := by decide
theorem test_dec_identifier : recordAfter .fstDec (fstState 2 15 0x8000 0) = some (0x00000406, 6) := by
  decide

/-! ### RS1024: section 2.8 -/

/-- Words at address 0, their count, and G3. -/
def rsState (ws : List Nat) (g3 : Word) : State :=
  start [(1, 0), (2, BitVec.ofNat 32 ws.length), (3, g3)] [(0, seqBytes ws)]

theorem test_polymod :
    regAfter (.rsPolymod 9) (rsState [1, 2, 3] 1) 9 = some 0x00F0E843 ∧
    regAfter (.rsPolymod 9) (rsState [0x3FF] 0x3FFFFFFF) 9 = some 0x0282E1F8 := by decide +kernel
theorem test_create :
    regAfter (.rsCreate 6 false) (rsState (officialWords.take 17) 0x100) 6 = some 0x0AD311F0 ∧
    bytesAfter (.rsCreate 6 true) (rsState (officialWords.take 17) 0x100) 0x100 6 =
      some (seqBytes [559, 257, 13]) := by decide +kernel
theorem test_verify :
    regAfter (.rsVerify 6 false) (rsState officialWords 0) 6 = some 1 ∧
    regAfter (.rsVerify 6 true) (rsState officialWords 0) 6 = some 0 := by decide +kernel
/-! ### Codec: section 2.9 -/

/-- The operands of V2.9.2. -/
def encState : State :=
  start [(1, 0x7FFF), (2, 0), (3, 1), (4, 2), (5, 3), (6, 5), (7, 4), (8, 2), (9, 0), (10, 16),
    (11, 0x100)] [(0, [0, 1, 2, 3, 4, 5, 6, 7, 8, 9, 10, 11, 12, 13, 14, 15])]

theorem test_codec_enc :
    bytesAfter (.codecEnc 13) encState 0x100 40 = some (seqBytes [1023, 993, 137, 65, 0, 4, 32, 193,
      5, 24, 112, 514, 266, 44, 192, 835, 527, 157, 30, 606]) ∧
    regAfter (.codecEnc 13) encState 13 = some 20 := by decide +kernel
/-- A word sequence to decode, output at 0x200. -/
def decState (ws : List Nat) : State := rsState ws 0x200

/-- The official vector, and a count of 21. -/
theorem test_codec_dec :
    bytesAfter .codecDec (decState officialWords) 0x200 16 = some officialValue ∧
    regAfter .codecDec (decState officialWords) 4 = some 7945 ∧
    recordAfter .codecDec (decState (officialWords ++ [0])) = some (0x00000506, 21) := by
  decide +kernel
/-! ### Host interface -/

/-- A busy core: NOP accepted, with events to come. -/
def busyWith (es : List Event) : State := { State.reset.accept 0 with inputs := es }

/-- An idle core with events to come. -/
def idleWith (es : List Event) : State := { State.reset with inputs := es }

/-- 70_reset_and_hazards.md R350: a write while BUSY is dropped and sets OVR. -/
theorem test_busy_write_is_dropped :
    (nextOf (step (busyWith [.hostWrite 0x044 4 5]))).map (fun t => (t.g.read 1, t.statusWord)) =
      some (0, 0x00000009) := by decide
/-- 30_encoding.md R109: an illegal word completes with its own value in ERRINFO. -/
theorem test_illegal_word :
    (nextOf (step (State.reset.accept 0x40000103))).map (fun t => (t.statusWord, t.errInfo)) =
      some (0x00001006, 0x40000103) := by decide
/-- 20_memory.md R78: the BUF window is big-endian. -/
theorem test_buf_window :
    (nextOf (step { start [] [(4, [0x12, 0x34, 0x56, 0x78])] with
      inputs := [.hostRead 0x1004 4] })).map (·.readData) = some (some 0x12345678) := by decide
/-- 60_exceptions.md R315: IRQ rises when IE is set after DONE. -/
theorem test_irq_after_done :
    (nextOf (step { idleWith [.hostWrite 0x004 4 1] with done := true })).map State.irq =
      some true := by decide

/-- A host that runs lines of a program on the reset core. -/
def runLines (fuel : Nat) (prog : List HostLine) : Option RunEnd :=
  match runHost fuel prog (HostRun.start State.reset) with
  | .next r => some r
  | .fault _ => none
  | .refused _ => none

/-- The observation of an over run, and the host after it. -/
def overOf (r : Option RunEnd) : Option (Observation × HostRun) :=
  match r with
  | some (.over seen h) => some (seen, h)
  | some (.notOver _) => none
  | none => none

/-- 30_encoding.md R112 on lines of P1: a host writes BUF, runs LI G1, LDB G2 and reads G2. -/
theorem test_host_program :
    (overOf (runLines 4 [.bufW 0 [0x53, 0xCA, 0, 0], .command 0x01100000, .command 0x04210000,
      .getG 2])).map (fun r => (r.1.status, r.1.g.read 2, r.2.line, r.2.got.read 2)) =
      some (2, 0x53, 4, 0x53) := by decide
/-- 70_reset_and_hazards.md R356 on the last two lines of P4, G1 = 0xFFF: the run observes the STATUS
read after STH, and CLRST then clears the record, as P4's end state lists; with lines left, or no CMD
written, it is not over. -/
theorem test_run_end :
    let prog : List HostLine := [.setG 1 0xFFF, .command 0x07012000, .clearStatus]
    (overOf (runLines 3 prog)).map (fun r => (r.1.status, r.1.errInfo, r.2.bus.core.statusWord)) =
      some (0x00001206, 0x00000FFF, 0) ∧
    overOf (runLines 2 prog) = none ∧ overOf (runLines 1 [.setG 1 0xFFF]) = none := by decide
/-- 30_encoding.md R113: 1 / 0x53 = 0xCA (2.4.7), and a division by 0 ends with the record of the INV and
both registers unchanged: the MUL, which would clear the record, is not issued. -/
theorem test_division :
    (overOf (runLines 3 [.setG 1 1, .setG 2 0x53, .pseudo (.gf8Div 3 1 2)])).map
      (fun r => (r.1.status, r.1.g.read 3)) = some (0x00000002, 0xCA) ∧
    (overOf (runLines 4 [.setG 1 0x57, .setG 3 9, .pseudo (.gf8Div 3 1 2), .getG 3])).map
      (fun r => (r.1.status, r.1.errInfo, r.2.got.read 3)) = some (0x00001106, 0x12, 9) ∧
    (overOf (runLines 2 [.setG 1 0x57, .pseudo (.gf10Div 3 1 2)])).map
      (fun r => (r.1.status, r.1.errInfo)) = some (0x00001106, 0x22) := by decide +kernel
/-- 30_encoding.md R113. -/
theorem test_pseudo :
    expandPseudo (.gf8Div 3 1 2) = some [.gf8Inv 3 2, .gf8Mul 3 1 3] ∧
    expandPseudo (.li32 1 0xDEADBEEF) = some [.li 1 0xBEEF, .lih 1 0xDEAD] ∧
    expandPseudo (.li32 1 7) = some [.li 1 7] := by decide

/-! ### Witnesses: a state and operands that meet the hypotheses of each statement that has some, clause
by clause, at the edges of the ranges. -/

theorem witness_DecodeOfEncodeIsTheCommand : WellFormed (.li 15 65535) ∧ WellFormed (.fstRound 255) := by
  decide
theorem witness_EncodeOfDecodeIsTheWord : decode 0x52F00001 = .ok (.rsVerify 15 true) := by decide
theorem witness_DecodeFollowsMatchAndMask :
    (⟨"RS.VERIFY", 0x52000000, 0xFF0FFFFE⟩ : OpcodeRow) ∈ opcodeTable := by decide
theorem witness_WordOfNoRowIsIllegal :
    (State.reset.accept 0x09000000).inputs = [] ∧
    (State.reset.placeCommand 0x09000000).inputs = .engineMoves :: [] ∧
    (State.reset.accept 0x09000000).pending = some ⟨0x09000000, ⟨State.reset.g, []⟩⟩ ∧
    (State.reset.placeCommand 0x09000000).pending = some ⟨0x09000000, ⟨State.reset.g, []⟩⟩ ∧
    ∀ row ∈ opcodeTable, (0x09000000 : Word) &&& row.mask ≠ row.pattern := by decide
theorem witness_StepRunsTheDecodedCommand :
    (∃ p, (busyWith []).pending = some p ∧ decode p.word = .ok .nop ∧ (busyWith []).inputs = []) ∧
    ∃ p, (busyWith [.engineMoves]).pending = some p ∧ decode p.word = .ok .nop ∧
      (busyWith [.engineMoves]).inputs = .engineMoves :: [] :=
  ⟨⟨_, rfl, by decide, rfl⟩, ⟨_, rfl, by decide, rfl⟩⟩
theorem witness_PlacedCommandRunsNext : decode 0x61000000 = .ok .codecDec := by decide
theorem witness_CmdWriteAcceptsWhenIdle :
    (idleWith [.hostWrite 0x010 4 0xFF000000]).inputs = .hostWrite 0x010 4 0xFF000000 :: [] ∧
    (idleWith [.hostWrite 0x010 4 0xFF000000]).busy = false ∧
    (busyWith [.hostWrite 0x010 4 0]).inputs = .hostWrite 0x010 4 0 :: [] ∧
    (busyWith [.hostWrite 0x010 4 0]).busy = true := by decide
theorem witness_EveryCommandCompletes :
    (∃ t, exec .nop State.reset = .next t ∧ t.err = false) ∧
    ∃ t, exec (.gf8Inv 3 1) State.reset = .next t ∧ t.err = true :=
  ⟨⟨_, rfl, by decide⟩, ⟨_, rfl, by decide⟩⟩
theorem witness_ErrorWritesOnlyTheRecord :
    (∃ p t, (State.reset.accept 0x12310000).inputs = [] ∧
      (State.reset.accept 0x12310000).pending = some p ∧
      step (State.reset.accept 0x12310000) = .next t ∧ t.err = true) ∧
    ∃ p t, (State.reset.placeCommand 0x12310000).inputs = .engineMoves :: [] ∧
      (State.reset.placeCommand 0x12310000).pending = some p ∧
      step (State.reset.placeCommand 0x12310000) = .next t ∧ t.err = true :=
  ⟨⟨_, _, rfl, rfl, rfl, by decide⟩, ⟨_, _, rfl, rfl, rfl, by decide⟩⟩
/-- BUF_SIZE is 4096: the second region of CODEC.ENC ends one byte too far. -/
theorem witness_FirstRegionOutOfRangeIsReported :
    (∃ s : State, regionsOf (.codecEnc 13) s.view = [(0, 16)] ++ (4057, 40) :: [] ∧
      RegionOk s.bufSize (0, 16) ∧ ¬ RegionOk s.bufSize (4057, 40)) ∧
    ∃ s : State, RegionsOk .codecDec s ∧ 20 ≤ s.view.regNat 2 ∧ decodedPad (s.view.regNat 2) ≤ 8 ∧
      ¬ RegionOk s.bufSize (s.view.regNat 3, decodedLength (s.view.regNat 2)) :=
  ⟨⟨start [(9, 0), (10, 16), (11, 4057)] [], by decide⟩, ⟨start [(2, 20), (3, 4081)] [], by decide⟩⟩
theorem witness_OnlySplitDrawsEntropy :
    (∃ t, exec .wipe State.reset = .next t) ∧
    (∃ t, exec .sssSplit (splitState 5 0 3 [0, 1, 2]) = .next t ∧ t.err = true) ∧
    (∃ t, exec .sssSplit (splitState 5 1 3 [0, 1, 2]) = .next t ∧
      (splitState 5 1 3 [0, 1, 2]).view.regNat 3 = 1) ∧
    ∃ t, exec .sssSplit (splitState 5 2 3 [0, 1, 2]) = .next t ∧ t.err = false ∧
      2 ≤ (splitState 5 2 3 [0, 1, 2]).view.regNat 3 :=
  ⟨⟨_, rfl⟩, ⟨_, rfl, by decide +kernel⟩, ⟨_, rfl, by decide +kernel⟩, ⟨_, rfl, by decide +kernel, by decide +kernel⟩⟩
theorem witness_IrqIsEnableAndDone :
    ({ State.reset with ie := true, done := true } : State).irq = true := by decide
theorem witness_StatusReadsAndClears :
    (idleWith [.hostWrite 0x008 4 0xE]).inputs = .hostWrite 0x008 4 0xE :: [] ∧
    (0xE : Word).getLsbD 2 = true ∧ (0xA : Word).getLsbD 2 = false ∧
    (idleWith [.hostWrite 0x008 4 0xA]).inputs = .hostWrite 0x008 4 0xA :: [] ∧
    (busyWith [.hostRead 0x008 4]).inputs = .hostRead 0x008 4 :: [] := by decide
/-- CMD, the first and last register, the first and last word of BUF. -/
theorem witness_BusyDropsWritesAndFreesReads :
    (∀ off ∈ [0x010, 0x040, 0x07C, 0x1000, 0x1FFC], (busyWith []).busy = true ∧ off % 4 = 0 ∧
      (off = 0x010 ∨ (0x040 ≤ off ∧ off ≤ 0x07C) ∨
        (0x1000 ≤ off ∧ off < 0x1000 + (busyWith []).bufSize))) ∧
    (busyWith [.hostWrite 0x1FFC 4 1]).inputs = .hostWrite 0x1FFC 4 1 :: [] ∧
    (busyWith [.hostRead 0x010 4]).inputs = .hostRead 0x010 4 :: [] := by decide
theorem witness_RegisterWindowReadsBack :
    (idleWith [.hostWrite 0x07C 4 9, .hostRead 0x07C 4]).busy = false ∧
    (idleWith [.hostWrite 0x07C 4 9, .hostRead 0x07C 4]).inputs =
      .hostWrite (0x040 + 4 * (15 : Reg).val) 4 9 :: .hostRead (0x040 + 4 * (15 : Reg).val) 4 :: [] := by
  decide
/-- The last word of BUF, for the three clauses. -/
theorem witness_BufWindowIsBigEndian :
    State.reset.buf.wf = true ∧ Config.bufSizeLegal State.reset.bufSize = true ∧
    1023 < State.reset.bufSize / 4 ∧ (idleWith []).busy = false ∧ (busyWith []).busy = true ∧
    (idleWith [.hostRead 0x1FFC 4]).inputs = .hostRead (0x1000 + 4 * 1023) 4 :: [] ∧
    (idleWith [.hostWrite 0x1FFC 4 7]).inputs = .hostWrite (0x1000 + 4 * 1023) 4 7 :: [] ∧
    (busyWith [.hostWrite 0x1FFC 4 7]).inputs = .hostWrite (0x1000 + 4 * 1023) 4 7 :: [] ∧
    (busyWith []).buf.wf = true := by decide
theorem witness_ControlRegistersReadAndIgnoreWrites :
    (∀ off ∈ [0x000, 0x004, 0x00C, 0x010, 0x014, 0x018, 0x03C, 0x080, 0xFFC], off % 4 = 0 ∧
      (idleWith [.hostRead off 4]).inputs = .hostRead off 4 :: []) ∧
    (idleWith [.hostWrite 0xFFC 4 1]).inputs = .hostWrite 0xFFC 4 1 :: [] := by decide
/-- 0x2000 is the first offset beyond the window. -/
theorem witness_AccessesOutsideTheSpecStop :
    (idleWith [.hostRead 0x040 2]).inputs = .hostRead 0x040 2 :: [] ∧ (2 : Nat) ≠ 4 ∧
    (idleWith [.hostWrite 0x042 4 1]).inputs = .hostWrite 0x042 4 1 :: [] ∧ 0x042 % 4 ≠ 0 ∧
    (idleWith [.hostRead 0x2000 4]).inputs = .hostRead 0x2000 4 :: [] ∧
    0x1000 + (idleWith []).bufSize ≤ 0x2000 := by decide
theorem witness_SoftResetAbandonsAndClears :
    (busyWith [.hostWrite 0x004 4 3]).inputs = .hostWrite 0x004 4 3 :: [] ∧
    (3 : Word).getLsbD 1 = true ∧
    (busyWith [.hostWrite 0x004 4 1]).inputs = .hostWrite 0x004 4 1 :: [] ∧
    (1 : Word).getLsbD 1 = false := by decide
/-- A busy core whose command is no SSS.SPLIT, and one whose command is. -/
theorem witness_BothResetsSetEveryStateToItsResetValue :
    (busyWith [.hardReset]).inputs = .hardReset :: [] ∧
    (busyWith [.hostWrite 0x004 4 2]).inputs = .hostWrite 0x004 4 2 :: [] ∧
    (2 : Word).getLsbD 1 = true ∧ (busyWith []).pending.map (·.word) = some 0 ∧
    (decode 0).toOption = some .nop ∧
    ((splitState 5 2 3 [0, 1, 2]).accept 0x32000000).pending.map (·.word) = some 0x32000000 ∧
    (decode 0x32000000).toOption = some .sssSplit := by decide
/-- A busy state that the invariant holds of, and its step. -/
theorem witness_EveryStepKeepsTheInvariant :
    (busyWith []).Inv ∧ ∃ t, step (busyWith []) = .next t :=
  ⟨{ bufCanonical := by decide
     bufInRange := by decide
     sizeLegal := by decide
     busyIffPending := by decide
     busyFlags := by decide
     snapshotCurrent := fun _ hp => by cases hp; rfl
     noErrNoRecord := by decide
     errCodeLegal := by decide
     scratchZero := rfl }, ⟨_, rfl⟩⟩
/-- A dropped write of BUF, and a read, before the completion. -/
theorem witness_HostCannotChangeARunningCommand :
    (busyWith [.hostWrite 0x1000 4 7, .engineMoves]).busy = true ∧
    (∃ p, (busyWith [.hostWrite 0x1000 4 7, .engineMoves]).pending = some p) ∧
    ¬ ((0x1000 : Nat) = 0x004 ∧ (7 : Word).getLsbD 1 = true) ∧
    (busyWith [.hostWrite 0x1000 4 7, .engineMoves]).inputs =
      .hostWrite 0x1000 4 7 :: .engineMoves :: [] ∧
    (∃ t, step (busyWith [.hostWrite 0x1000 4 7, .engineMoves]) = .next t) ∧
    ∃ t, step (busyWith [.hostRead 0x040 4, .engineMoves]) = .next t :=
  ⟨rfl, ⟨_, rfl⟩, by decide, rfl, ⟨_, rfl⟩, ⟨_, rfl⟩⟩
/-- The last byte and the last halfword of BUF. -/
theorem witness_LoadsReadTheirAddress :
    ((start [(1, 4090)] []).view.reg 1).toNat + (5 : BitVec 12).toNat + 1 ≤ 4096 ∧
    ((start [(1, 4090)] []).view.reg 1).toNat + (4 : BitVec 12).toNat + 2 ≤ 4096 ∧
    (start [(1, 4090)] []).bufSize = 4096 := by decide
theorem witness_StoresWriteTheirAddressOnly :
    (start [(1, 4090)] [(0, [1])]).buf.wf = true ∧
    ((start [(1, 4090)] [(0, [1])]).view.reg 1).toNat + (5 : BitVec 12).toNat + 1 ≤ 4096 ∧
    ((start [(1, 4090)] [(0, [1])]).view.reg 1).toNat + (4 : BitVec 12).toNat + 2 ≤ 4096 := by decide
/-- One byte beyond, and the largest address. -/
theorem witness_LoadsAndStoresOutOfRangeRaise :
    4096 < ((start [(1, 4096)] []).view.reg 1).toNat + (0 : BitVec 12).toNat + 1 ∧
    4096 < ((start [(1, 4095)] []).view.reg 1).toNat + (0 : BitVec 12).toNat + 2 ∧
    4096 < ((start [(1, 0xFFFFFFFF)] []).view.reg 1).toNat + (4095 : BitVec 12).toNat + 1 := by decide
/-- The whole of BUF, and the empty region at the largest address. -/
theorem witness_WipeZeroesItsRegionOnly :
    (start [(2, 4096)] []).buf.wf = true ∧ RegionsOk .wipe (start [(2, 4096)] []) ∧
    RegionsOk .wipe (start [(1, 0xFFFFFFFF)] []) := by decide
theorem witness_Gf8InvGivesTheUniqueInverse :
    ((start [(1, 0x153)] []).view.reg 1).setWidth 8 ≠ 0#8 := by decide
theorem witness_Gf8LogGivesTheUniqueLogarithm :
    ((start [(1, 1)] []).view.reg 1).setWidth 8 ≠ 0#8 := by decide
theorem witness_ZeroHasNoInverseAndNoLogarithm :
    ((start [(1, 0x100)] []).view.reg 1).toNat % 2 ^ 8 = 0 ∧
    ((start [(1, 0x400)] []).view.reg 1).toNat % 2 ^ 10 = 0 := by decide
theorem witness_Gf10InvGivesTheUniqueInverse :
    ((start [(1, 0x100)] []).view.reg 1).setWidth 10 ≠ 0#10 := by decide
/-- The first check of a list that fires. -/
def firstCheck (checks : List (Bool × ErrCode × Nat)) : Option (ErrCode × Nat) :=
  (checks.find? (·.1)).map (·.2)

/-- Valid operands; then each check alone, at the edge of its range. -/
theorem witness_InterpChecksThenWritesTheValueAtX :
    let checks := fun s : State =>
      let recs := readRecords s.view.buf (s.view.regNat 1) (s.view.regNat 2) (s.view.regNat 3)
      firstCheck [(s.view.regNat 3 = 0, .invalidLength, 3), (255 < s.view.regNat 4, .invalidParameter, 4),
        (s.view.regNat 2 = 0, .insufficientShares, 1), (¬ (recs.map (·.1)).Nodup, .invalidShareData, 1)]
    let noLength := start [(2, 2)] []
    let noRecords := start [(3, 1)] []
    let repeated := start [(2, 2), (3, 1)] []
    (∀ s ∈ [interpState 255, interpState 256, noLength, noRecords, repeated], RegionsOk .sssInterp s) ∧
    (interpState 255).buf.wf = true ∧ checks (interpState 255) = none ∧
    checks noLength = some (.invalidLength, 3) ∧
    checks (interpState 256) = some (.invalidParameter, 4) ∧
    checks noRecords = some (.insufficientShares, 1) ∧
    checks repeated = some (.invalidShareData, 1) := by decide
theorem witness_InterpIgnoresRecordOrder :
    List.Perm [((1 : Byte), [(5 : Byte)]), (2, [7])] [(2, [7]), (1, [5])] ∧
    ([((1 : Byte), [(5 : Byte)]), (2, [7])].map (·.1)).Nodup := by decide
theorem witness_InterpPassesThroughItsRecords :
    ([((1 : Byte), [(5 : Byte)]), (2, [7])].map (·.1)).Nodup ∧
    (∀ r ∈ [((1 : Byte), [(5 : Byte)]), (2, [7])], r.2.length = 1) ∧
    ([((1 : Byte), [(5 : Byte)])].map (·.1)).Nodup := by decide
theorem witness_LogDomainInterpolationAgrees :
    [((1 : Byte), (5 : Byte)), (2, 0)] ≠ [] ∧ ([((1 : Byte), (5 : Byte)), (2, 0)].map (·.1)).Nodup ∧
    (0 : Byte) ∉ [((1 : Byte), (5 : Byte)), (2, 0)].map (·.1) := by decide
theorem witness_DigestGoesToRd :
    RegionsOk (.sssDigest 7) digestState ∧ RegionsOk (.sssDigest 7) State.reset := by decide
/-- T = 1 with one byte, and T = N = 3 with five bytes. -/
theorem witness_SplitWritesItsRecords :
    (∀ s ∈ [splitState 1 1 3 [0, 1, 253], splitState 5 3 3 [0, 1, 253]], s.buf.wf = true ∧
      RegionsOk .sssSplit s ∧ 1 ≤ s.view.regNat 3 ∧ s.view.regNat 3 ≤ s.view.regNat 4 ∧
      s.view.regNat 4 ≤ 255 ∧ (s.view.buf.readBytes 8 3).Nodup ∧ s.view.regNat 2 ≠ 0 ∧
      (∀ x ∈ s.view.buf.readBytes 8 3, x ≠ 254 ∧ x ≠ 255)) ∧
    (splitState 1 1 3 [0, 1, 253]).view.regNat 3 = 1 ∧
    2 ≤ (splitState 5 3 3 [0, 1, 253]).view.regNat 3 ∧
    5 ≤ (splitState 5 3 3 [0, 1, 253]).view.regNat 2 := by decide
/-- T = 0 and T = N + 1; N = 256; a repeated x; a reserved x; n = 0, and n = 4 with T = 2. -/
theorem witness_SplitReportsItsFirstFailingCheck :
    (∀ s ∈ [splitState 5 0 3 [], splitState 5 4 3 [], splitState 4 2 256 [],
      splitState 5 2 3 [1, 1, 2], splitState 5 2 3 [0, 254, 2], splitState 0 1 3 [0, 1, 2],
      splitState 4 2 3 [0, 1, 2]], RegionsOk .sssSplit s) ∧
    255 < (splitState 4 2 256 []).view.regNat 4 ∧
    ¬ ((splitState 5 2 3 [1, 1, 2]).view.buf.readBytes 8 3).Nodup ∧
    ((splitState 5 2 3 [0, 254, 2]).view.buf.readBytes 8 3).Nodup ∧
    (∃ x ∈ (splitState 5 2 3 [0, 254, 2]).view.buf.readBytes 8 3, x = 254 ∨ x = 255) ∧
    ((splitState 4 2 3 [0, 1, 2]).view.buf.readBytes 8 3).Nodup ∧
    (∀ x ∈ (splitState 4 2 3 [0, 1, 2]).view.buf.readBytes 8 3, x ≠ 254 ∧ x ≠ 255) := by decide
/-- T = 1 with one record of one byte; T = 2 on two records, whose digest matches (V2.6.5) or not. -/
theorem witness_ReconWritesRecordZeroOrAVerifiedSecret :
    (∀ s ∈ [reconState 1 1 1 rec1, reconState 2 5 2 (rec1 ++ rec2),
        reconState 2 5 2 (rec1 ++ [0x02, 0x71, 0x91, 0x77, 0x90, 0xCC])],
      s.buf.wf = true ∧ RegionsOk .sssRecon s ∧ 1 ≤ s.view.regNat 4 ∧ s.view.regNat 4 ≤ 255 ∧
      s.view.regNat 4 ≤ s.view.regNat 2 ∧ s.view.regNat 3 ≠ 0 ∧
      (let recs := readRecords s.view.buf (s.view.regNat 1) (s.view.regNat 2) (s.view.regNat 3)
       (recs.map (·.1)).Nodup ∧ ∀ r ∈ recs, r.1 ≠ 254 ∧ r.1 ≠ 255)) ∧
    (reconState 1 1 1 rec1).view.regNat 4 = 1 ∧
    (let recs := readRecords (reconState 2 5 2 (rec1 ++ rec2)).view.buf 0x16 2 5
     digest ((interp 5 recs 254).drop 4) (interp 5 recs 255) = (interp 5 recs 254).take 4) ∧
    (let recs := readRecords
        (reconState 2 5 2 (rec1 ++ [0x02, 0x71, 0x91, 0x77, 0x90, 0xCC])).view.buf 0x16 2 5
     digest ((interp 5 recs 254).drop 4) (interp 5 recs 255) ≠ (interp 5 recs 254).take 4) := by
  decide +kernel
/-- T = 0 and T = 256; k = T - 1 at T = 255 and at T = 1; n = 0 at T = 1 and n = 4 at T = 2; a repeated
and a reserved coordinate. -/
theorem witness_ReconReportsItsFirstFailingCheck :
    let checks := fun s : State =>
      let k := s.view.regNat 2
      let n := s.view.regNat 3
      let T := s.view.regNat 4
      let xs := (readRecords s.view.buf (s.view.regNat 1) k n).map (·.1)
      firstCheck [(T < 1 ∨ 255 < T, .invalidThreshold, 4),
        (k < T, .insufficientShares, min k 0xFFFF * 2 ^ 16 + T), (n = 0, .invalidLength, 3),
        (2 ≤ T ∧ n ≤ 4, .invalidLength, 3), (¬ xs.Nodup, .invalidShareData, 1),
        (xs.any fun x => x == 254 || x == 255, .invalidShareData, 2)]
    ∀ e ∈ [(reconState 1 5 0 rec1, ErrCode.invalidThreshold, 4),
      (reconState 1 5 256 rec1, .invalidThreshold, 4),
      (reconState 254 1 255 [], .insufficientShares, 254 * 2 ^ 16 + 255),
      (reconState 0 0 1 [], .insufficientShares, 1), (reconState 1 0 1 rec1, .invalidLength, 3),
      (reconState 2 4 2 rec1, .invalidLength, 3),
      (reconState 2 5 2 (rec1 ++ rec1), .invalidShareData, 1),
      (reconState 1 5 1 [255], .invalidShareData, 2)],
      RegionsOk .sssRecon e.1 ∧ checks e.1 = some e.2 := by decide
/-- V2.6.5's records at x = 1, 2, entropy from 0xA0. -/
theorem witness_ReconOfSplitSharesIsTheSecret :
    let s := reconState 2 5 2 (rec1 ++ rec2)
    let secret : List Byte := [1, 2, 3, 4, 5]
    s.buf.wf = true ∧ 2 ≤ 2 ∧ 5 ≤ secret.length ∧ ([1, 2] : List Byte).Nodup ∧
    (∀ x ∈ ([1, 2] : List Byte), x ≠ 254 ∧ x ≠ 255) ∧ s.view.regNat 2 = 2 ∧
    s.view.regNat 3 = secret.length ∧ s.view.regNat 4 = 2 ∧ RegionsOk .sssRecon s ∧
    s.view.buf.readBytes (s.view.regNat 1) (2 * (1 + secret.length)) =
      ([1, 2] : List Byte).flatMap fun x =>
        x :: interp secret.length (splitBase (fun t => BitVec.ofNat 8 (0xA0 + t)) secret 2) x := by
  decide +kernel
theorem witness_FstRoundWritesTheKeystream :
    let s := fstState 1 15 0x7FFF 1
    s.buf.wf = true ∧ RegionsOk (.fstRound (255 : Byte).toNat) s ∧ s.view.regNat 2 ≠ 0 ∧
    s.view.regNat 5 ≤ 15 ∧ s.view.regNat 6 ≤ 0x7FFF ∧ s.view.regNat 7 ≤ 1 := by decide
theorem witness_FstCiphersRunTheFourRounds :
    let s := fstState 2 15 0x7FFF 1
    s.buf.wf = true ∧ s.view.regNat 2 ≠ 0 ∧ s.view.regNat 2 % 2 = 0 ∧ s.view.regNat 5 ≤ 15 ∧
    s.view.regNat 6 ≤ 0x7FFF ∧ s.view.regNat 7 ≤ 1 ∧ RegionsOk .fstEnc s ∧ RegionsOk .fstDec s := by
  decide
theorem witness_FeistelDecUndoesEnc : ([0, 1] : List Byte).length % 2 = 0 := by decide
/-- m = 0 for FST.ROUND, L = 15 for the ciphers; then e = 16, id = 0x8000 and ext = 2, one at a time. -/
theorem witness_FstParametersAreCheckedInOrder :
    RegionsOk (.fstRound 7) (fstState 0 0 0 0) ∧ (fstState 0 0 0 0).view.regNat 2 = 0 ∧
    RegionsOk .fstEnc (fstState 15 0 0 0) ∧ (fstState 15 0 0 0).view.regNat 2 % 2 = 1 ∧
    RegionsOk (.fstRound 7) (fstState 1 16 0 0) ∧ 15 < (fstState 1 16 0 0).view.regNat 5 ∧
    RegionsOk .fstDec (fstState 2 15 0x8000 0) ∧ 0x7FFF < (fstState 2 15 0x8000 0).view.regNat 6 ∧
    RegionsOk .fstEnc (fstState 2 15 0x7FFF 2) ∧ 1 < (fstState 2 15 0x7FFF 2).view.regNat 7 := by decide
theorem halves_small {hs : List Half} (h : (hs.all fun x => decide (x.toNat ≤ 1023)) = true) :
    ∀ x ∈ hs, x.toNat ≤ 1023 := by simpa using h
theorem witness_RsCommandsWriteTheirResults :
    ((rsState [1023] 0x3FFFFFFF).buf.wf = true ∧ RegionsOk (.rsPolymod 9) (rsState [1023] 0x3FFFFFFF) ∧
      (rsState [1023] 0x3FFFFFFF).view.regNat 3 < 2 ^ 30 ∧
      RegionsOk (.rsCreate 6 true) (rsState [] 4090) ∧ (rsState [] 4090).buf.wf = true ∧
      RegionsOk (.rsVerify 6 false) (rsState [1023] 0x3FFFFFFF)) ∧
    (∀ h ∈ readHalves (rsState [1023] 0x3FFFFFFF).view.buf 0 1, h.toNat ≤ 1023) ∧
    ∀ h ∈ readHalves (rsState [] 4090).view.buf 0 0, h.toNat ≤ 1023 :=
  ⟨by decide, halves_small (by decide), halves_small (by decide)⟩
/-- A word 0x400 at address 0. -/
def aboveState : State := start [(2, 1), (3, 0x100)] [(0, [0x04, 0x00])]
theorem witness_RsRejectsWordsAbove1023 :
    (∃ h ∈ readHalves aboveState.view.buf 0 1, 1023 < h.toNat) ∧
    (RegionsOk (.rsPolymod 9) aboveState ∧ RegionsOk (.rsCreate 9 true) aboveState ∧
      RegionsOk (.rsVerify 9 false) aboveState ∧
      RegionsOk (.rsPolymod 9) (rsState [1023] 0x40000000) ∧
      2 ^ 30 ≤ (rsState [1023] 0x40000000).view.regNat 3) ∧
    ∀ h ∈ readHalves (rsState [1023] 0x40000000).view.buf 0 1, h.toNat ≤ 1023 :=
  ⟨⟨0x0400, by decide, by decide⟩, by decide,
    halves_small (by decide)⟩
/-- 2.8.10: the checksum of no words. -/
theorem witness_ChangedWordFailsVerification :
    (424 : Word10) ≠ 425 ∧ rsValid false ([413] ++ 424 :: [113]) = true := by decide
/-- The largest share fields of V2.9.3, with 16 bytes. -/
def largestShare : Share :=
  { id := 0x7FFF, ext := true, e := 15, gi := 15, gt := 16, gc := 16, mi := 15, mt := 16
    value := List.replicate 16 0xFF }
theorem witness_ShareWordsPackTheShare :
    1 ≤ largestShare.gt ∧ largestShare.gt ≤ 16 ∧ 1 ≤ largestShare.gc ∧ largestShare.gc ≤ 16 ∧
    1 ≤ largestShare.mt ∧ largestShare.mt ≤ 16 := by decide
/-- The operands of V2.9.2 with register r changed to v. -/
def encWith (r : Reg) (v : Word) : State := { encState with g := encState.g.write r v }

/-- V2.9.2's operands; then each check of R255 alone, at the edges of its range. -/
theorem witness_CodecEncChecksThenWritesTheWords :
    let checks := fun s : State =>
      let v := s.view
      firstCheck [
      (0x7FFF < v.regNat 1, .invalidIdentifier, 1),
      (1 < v.regNat 2, .invalidParameter, 2),
      (15 < v.regNat 3, .invalidParameter, 3),
      (15 < v.regNat 4, .invalidParameter, 4),
      (v.regNat 5 < 1 ∨ 16 < v.regNat 5, .invalidThreshold, 5),
      (v.regNat 6 < 1 ∨ 16 < v.regNat 6, .invalidGroupConfig, 6),
      (15 < v.regNat 7, .invalidParameter, 7),
      (v.regNat 8 < 1 ∨ 16 < v.regNat 8, .invalidThreshold, 8),
      (v.regNat 6 < v.regNat 5, .invalidGroupConfig, 5),
      (v.regNat 6 ≤ v.regNat 4, .invalidGroupConfig, 4),
      (v.regNat 10 < 16 ∨ v.regNat 10 % 2 = 1, .invalidLength, 10)]
    (encState.buf.wf = true ∧ RegionsOk (.codecEnc 13) encState ∧ checks encState = none) ∧
    ∀ e ∈ [(encWith 1 0x8000, ErrCode.invalidIdentifier, 1), (encWith 2 2, .invalidParameter, 2),
      (encWith 3 16, .invalidParameter, 3), (encWith 4 16, .invalidParameter, 4),
      (encWith 5 0, .invalidThreshold, 5), (encWith 5 17, .invalidThreshold, 5),
      (encWith 6 0, .invalidGroupConfig, 6), (encWith 6 17, .invalidGroupConfig, 6),
      (encWith 7 16, .invalidParameter, 7), (encWith 8 0, .invalidThreshold, 8),
      (encWith 8 17, .invalidThreshold, 8), (encWith 5 6, .invalidGroupConfig, 5),
      (encWith 4 5, .invalidGroupConfig, 4), (encWith 10 14, .invalidLength, 10),
      (encWith 10 17, .invalidLength, 10)],
      RegionsOk (.codecEnc 13) e.1 ∧ checks e.1 = some e.2 := by decide
/-- The official vector; then each check of R258 alone: counts 19 and 21, an output region one byte too
far, and the sequences of V2.9.6. -/
theorem witness_CodecDecChecksThenWritesTheShare :
    (let checks := fun s : State =>
      let c := s.view.regNat 2
      let W := c - 7
      let pad := (10 * W) % 16
      let vlen := (10 * W - pad) / 8
      let hs := readHalves s.view.buf (s.view.regNat 1) c
      let ws := words10 hs
      let gm : BitVec 20 := ws.getD 2 0 ++ ws.getD 3 0
      let ext := (ws.getD 1 0).getLsbD 4
      let v := natOfWords ((ws.drop 4).take W)
      let gi := (gm.extractLsb' 16 4).toNat
      let gt := (gm.extractLsb' 12 4).toNat + 1
      let gc := (gm.extractLsb' 8 4).toNat + 1
      firstCheck [
        (c < 20, .invalidMnemonicLength, c),
        (8 < pad, .invalidMnemonicLength, c),
        (¬ RegionOk s.bufSize (s.view.regNat 3, vlen), .bufRange, s.view.regNat 3),
        (hs.any fun h => 1023 < h.toNat, .invalidShareData, 3),
        (polymod (cust ext ++ ws) 1 ≠ 1, .checksumFailed, 0),
        (v / 2 ^ (10 * W - pad) ≠ 0, .invalidShareData, 4),
        (gc < gt, .invalidShareData, 5),
        (gc ≤ gi, .invalidShareData, 6)]
     let tail := (officialWords.drop 5).take 12
     let above := start [(1, 0), (2, 20), (3, 0x200)] [(0, [0x04, 0x00])]
     ((decState officialWords).buf.wf = true ∧ RegionsOk .codecDec (decState officialWords) ∧
       checks (decState officialWords) = none) ∧
     ∀ e ∈ [(decState (officialWords.take 19), ErrCode.invalidMnemonicLength, 19),
       (decState (officialWords ++ [0]), .invalidMnemonicLength, 21),
       (rsState officialWords 4081, .bufRange, 4081), (above, .invalidShareData, 3),
       (decState (officialWords.set 5 752), .checksumFailed, 0),
       (decState ([248, 288, 0, 0, 529] ++ tail ++ [326, 438, 168]), .invalidShareData, 4),
       (decState ([248, 288, 4, 0, 17] ++ tail ++ [427, 334, 209]), .invalidShareData, 5),
       (decState ([248, 288, 64, 0, 17] ++ tail ++ [233, 82, 964]), .invalidShareData, 6)],
       RegionsOk .codecDec e.1 ∧ checks e.1 = some e.2) ∧
    ∀ h ∈ readHalves (decState officialWords).view.buf ((decState officialWords).view.regNat 1) 20,
      h.toNat ≤ 1023 :=
  ⟨by decide +kernel, halves_small (by decide +kernel)⟩
theorem witness_DecodedShareIsTheEncodedOne :
    1 ≤ largestShare.gt ∧ largestShare.gt ≤ largestShare.gc ∧ largestShare.gc ≤ 16 ∧
    largestShare.gi.toNat < largestShare.gc ∧ 1 ≤ largestShare.mt ∧ largestShare.mt ≤ 16 ∧
    16 ≤ largestShare.value.length ∧ largestShare.value.length % 2 = 0 := by decide

end Sys2Proof.Tests
end

namespace Sys2Proof.Machine

/-! SUPPORT. What every command's rule can answer: registers and one byte string that fits in BUF, or an
error with a code that some rule raises. -/

/-! ### What a rule can answer -/

/-- An outcome that a completion can take: its byte string stays inside BUF_SIZE (10_state.md R38), its
error code is one that some rule raises (60_exceptions.md R310). -/
def Result.Sound (size : Nat) : Result → Prop
  | .ok e => e.bytes = [] ∨ e.addr + e.bytes.length ≤ size
  | .err c _ => c ≠ .incompatibleShares

/-- Every code but the reserved one is in the ranges of 60_exceptions.md R310. -/
theorem legalErrCode_code {c : ErrCode} (h : c ≠ .incompatibleShares) :
    legalErrCode c.code = true := by
  cases c
  case incompatibleShares => exact absurd rfl h
  all_goals rfl

theorem raise_sound {size : Nat} {c : ErrCode} {info : Nat} (h : c ≠ .incompatibleShares) :
    (raise c info).Sound size := h

theorem okReg_sound {size : Nat} (rd : Reg) (v : Word) : (okReg rd v).Sound size := .inl rfl

/-- A byte string written to a region in range stays inside BUF_SIZE (20_memory.md R75). -/
theorem ok_sound {size : Nat} {e : Effects} (h : inRange size (e.addr, e.bytes.length) = true) :
    (Result.ok e).Sound size :=
  ((inRange_iff _ _ _).1 h).imp_left List.eq_nil_of_length_eq_zero

theorem withRegions_sound {size : Nat} {rs : List (Nat × Nat)} {body : Result}
    (h : (∀ r ∈ rs, inRange size r = true) → body.Sound size) :
    (withRegions size rs body).Sound size := by
  rcases withRegions_cases size rs body with ⟨a, -, he⟩ | ⟨hn, he⟩
  · rw [he]; exact ErrCode.noConfusion
  · rw [he]; exact h ((firstOutOfRange_eq_none size rs).1 hn)

/-- One check of a rule (60_exceptions.md R302): it raises a code that is not the reserved one, or the
rest of the rule answers. -/
theorem check_sound {size : Nat} {p : Prop} [Decidable p] {c : ErrCode} {info : Nat} {body : Result}
    (h : ¬ p → body.Sound size) (hc : c ≠ .incompatibleShares := by decide) :
    (if p then raise c info else body).Sound size := by
  split_ifs with hp
  · exact raise_sound hc
  · exact h hp

/-! ### Lengths of the byte strings that commands write -/

theorem length_bytesOfWords (ws : List Word10) : (bytesOfWords ws).length = 2 * ws.length := by
  simp [bytesOfWords, bytesOfWord10, bytesOfHalf, Nat.mul_comm]

theorem length_shareWords (sh : Share) :
    (shareWords sh).length = 7 + payloadCount sh.value.length := by
  simp [shareWords, headerWords, payloadWords, checksumWords]; omega

theorem length_bytesOfNat (n v : Nat) : (bytesOfNat n v).length = n := by simp [bytesOfNat]

theorem length_interp (n : Nat) (recs : List Point) (x : Byte) : (interp n recs x).length = n := by
  simp [interp]

theorem length_shareValue (E : Nat → Byte) (secret : List Byte) (T : Nat) (x : Byte) :
    (shareValue E secret T x).length = secret.length := by
  unfold shareValue
  split_ifs
  · rfl
  · exact length_interp _ _ _

/-- A point table whose values all have n bytes has 1 + n bytes per record (42_shamir.md R181). -/
theorem length_bytesOfRecords {n : Nat} {recs : List Point} (h : ∀ r ∈ recs, r.2.length = n) :
    (bytesOfRecords recs).length = recs.length * (1 + n) := by
  have hmap : recs.map (fun r => r.2.length) = recs.map fun _ => n := List.map_congr_left h
  simp [bytesOfRecords, List.length_flatMap, hmap]
  ring

/-- The first value of a point table has n bytes, or there is none. -/
theorem length_headD_readRecords (m : Memory) (P k n : Nat) :
    (((readRecords m P k n).map (·.2)).headD []).length = if k = 0 then 0 else n := by
  cases k with
  | zero => rfl
  | succ k => simp [readRecords, List.range_succ_eq_map]

/-- A Feistel round on two halves of h bytes gives two halves of h bytes (43_feistel.md R215). -/
theorem length_fstStep {F : Byte → List Byte → List Byte} (hF : ∀ i r, (F i r).length = r.length)
    {h : Nat} {lr : List Byte × List Byte} (hlr : lr.1.length = h ∧ lr.2.length = h) (i : Byte) :
    (fstStep F lr i).1.length = h ∧ (fstStep F lr i).2.length = h := by
  simp [fstStep, hF, hlr]

theorem length_fstRounds {F : Byte → List Byte → List Byte} (hF : ∀ i r, (F i r).length = r.length)
    {h : Nat} (rounds : List Byte) : ∀ lr : List Byte × List Byte, lr.1.length = h ∧ lr.2.length = h →
      (rounds.foldl (fstStep F) lr).1.length = h ∧ (rounds.foldl (fstStep F) lr).2.length = h := by
  induction rounds with
  | nil => exact fun _ hlr => hlr
  | cons i rest ih => exact fun lr hlr => ih _ (length_fstStep hF hlr i)

/-- The network keeps the length of a string of even length (43_feistel.md R215). -/
theorem length_fstNetwork {F : Byte → List Byte → List Byte} (hF : ∀ i r, (F i r).length = r.length)
    (rounds D : List Byte) (hD : D.length % 2 = 0) : (fstNetwork F rounds D).length = D.length := by
  have hr := length_fstRounds hF (h := D.length / 2) rounds
    (D.take (D.length / 2), D.drop (D.length / 2)) (by constructor <;> simp <;> omega)
  simp only [fstNetwork, List.length_append, hr]
  omega

theorem length_fstF (p : FstParams) (i : Byte) (r : List Byte) : (fstF p i r).length = r.length :=
  length_pbkdf2 _ _ _ _

/-! ### Each bulk rule's answer -/

theorem polymodRule_sound (rd : Reg) (size : Nat) (v : Snapshot) :
    (polymodRule rd size v).Sound size :=
  withRegions_sound fun _ => check_sound fun _ => check_sound fun _ => okReg_sound _ _

theorem createRule_sound (rd : Reg) (ext : Bool) (size : Nat) (v : Snapshot) :
    (createRule rd ext size v).Sound size :=
  withRegions_sound fun hr => check_sound fun _ => ok_sound (hr (v.regNat 3, 6) (by simp))

theorem verifyRule_sound (rd : Reg) (ext : Bool) (size : Nat) (v : Snapshot) :
    (verifyRule rd ext size v).Sound size :=
  withRegions_sound fun _ => check_sound fun _ => okReg_sound _ _

theorem encRule_sound (rd : Reg) (size : Nat) (v : Snapshot) : (encRule rd size v).Sound size :=
  withRegions_sound fun hr => by
    iterate 11 refine check_sound fun _ => ?_
    apply ok_sound
    simpa [length_bytesOfWords, length_shareWords] using (List.forall_mem_cons.1 hr).2

/-- CODEC.DEC's share carries a value of the length its output region was checked for
(45_codec.md R258); every failing check has a code of 60_exceptions.md R310. -/
theorem shareOfWords_cases (ws : List Word10) :
    (∃ c info, shareOfWords ws = .error (c, info) ∧ c ≠ .incompatibleShares) ∨
      (∃ sh, shareOfWords ws = .ok sh ∧ sh.value.length = decodedLength ws.length) := by
  unfold shareOfWords
  extract_lets
  split_ifs
  · exact .inl ⟨_, _, rfl, by decide⟩
  · exact .inl ⟨_, _, rfl, by decide⟩
  · exact .inl ⟨_, _, rfl, by decide⟩
  · exact .inl ⟨_, _, rfl, by decide⟩
  · exact .inr ⟨_, rfl, length_bytesOfNat _ _⟩

theorem decRule_sound (size : Nat) (v : Snapshot) : (decRule size v).Sound size :=
  withRegions_sound fun _ => check_sound fun _ => check_sound fun _ =>
    withRegions_sound fun hr => check_sound fun _ => by
      rcases shareOfWords_cases (words10 (readHalves v.buf (v.regNat 1) (v.regNat 2))) with
        ⟨c, info, he, hc⟩ | ⟨sh, he, hlen⟩
      · rw [he]; exact raise_sound hc
      · rw [he]
        apply ok_sound
        simpa [decEffects, hlen, words10, readHalves] using hr

theorem interpRule_sound (size : Nat) (v : Snapshot) : (interpRule size v).Sound size :=
  withRegions_sound fun hr => check_sound fun _ => check_sound fun _ => check_sound fun _ =>
    check_sound fun _ => ok_sound (by rw [length_interp]; exact hr _ (by simp))

theorem digestRule_sound (rd : Reg) (size : Nat) (v : Snapshot) : (digestRule rd size v).Sound size :=
  withRegions_sound fun _ => okReg_sound _ _

theorem splitRule_sound (E : Nat → Byte) (size : Nat) (v : Snapshot) :
    (splitRule E size v).Sound size :=
  withRegions_sound fun hr => by
    iterate 6 refine check_sound fun _ => ?_
    apply ok_sound
    rw [length_bytesOfRecords (n := v.regNat 2) (by simp [length_shareValue])]
    simpa using hr (v.regNat 6, v.regNat 4 * (1 + v.regNat 2)) (by simp)

theorem reconRule_sound (size : Nat) (v : Snapshot) : (reconRule size v).Sound size :=
  withRegions_sound fun hr => by
    iterate 6 refine check_sound fun _ => ?_
    have hout : inRange size (v.regNat 5, v.regNat 3) = true := hr _ (by simp)
    dsimp only
    split_ifs
    · apply ok_sound
      simp only [length_headD_readRecords]
      split_ifs
      · rfl
      · exact hout
    · exact ok_sound (by rw [length_interp]; exact hout)
    · exact raise_sound (by decide)

theorem withFstParams_sound {size : Nat} (v : Snapshot) {body : FstParams → Result}
    (h : ∀ p, (body p).Sound size) : (withFstParams v body).Sound size :=
  check_sound fun _ => check_sound fun _ => check_sound fun _ => h _

theorem fstRoundRule_sound (round size : Nat) (v : Snapshot) :
    (fstRoundRule round size v).Sound size :=
  withRegions_sound fun hr => check_sound fun _ => withFstParams_sound v fun p =>
    ok_sound (by simpa [length_fstF] using hr (v.regNat 8, v.regNat 2) (by simp))

/-- FST.ENC and FST.DEC: both are the network over some rounds, and the length check leaves it a string
of even length. -/
theorem fstCipherRule_sound (rounds : List Byte) (size : Nat) (v : Snapshot) :
    (fstCipherRule (fun F => fstNetwork F rounds) size v).Sound size :=
  withRegions_sound fun hr => check_sound fun hL => withFstParams_sound v fun p => by
    have heven : (v.buf.readBytes (v.regNat 1) (v.regNat 2)).length % 2 = 0 := by
      rw [Memory.length_readBytes]; omega
    apply ok_sound
    rw [length_fstNetwork (length_fstF p) _ _ heven, Memory.length_readBytes]
    exact hr _ (by simp)

end Sys2Proof.Machine

namespace Sys2Proof.Machine

/-! CLAIMS. The host's view of the state, the invariant that every step keeps, and the command that no
host access can change (10_state.md). -/

/-! ### Commands as rules -/

/-- A command's meaning as a function of all it can read: the bytes the entropy port has ahead, BUF_SIZE
and the snapshot (10_state.md R49, 60_exceptions.md R301). -/
abbrev Rule := (Nat → Byte) → Nat → Snapshot → Result

/-- The meaning `run` is the completion of what the rule answers. -/
def Rule.Runs (rule : Rule) (run : State → Host.Outcome State Fault Refusal) : Prop :=
  ∀ s, run s = runRule (rule s.entropyAhead) s

/-- The rule answers what a completion can take. -/
def Rule.Sound (rule : Rule) : Prop := ∀ E size v, (rule E size v).Sound size

/-- A meaning that runs a rule of BUF_SIZE and the snapshot alone is a rule that looks at no entropy. -/
theorem isRule_of_plain {run : State → Host.Outcome State Fault Refusal}
    {f : Nat → Snapshot → Result} (hruns : ∀ s, run s = runRule f s)
    (hsound : ∀ size v, (f size v).Sound size) : ∃ rule : Rule, rule.Runs run ∧ rule.Sound :=
  ⟨fun _ => f, hruns, fun _ => hsound⟩

/-- Every command is a rule whose answers a completion can take: the one case split over the commands,
which stand together where their rules have one form. Only SSS.SPLIT looks at the entropy port. -/
theorem exec_isRule (i : Instr) : ∃ rule : Rule, rule.Runs (exec i) ∧ rule.Sound := by
  cases i
  case sssSplit => exact ⟨splitRule, fun _ => rfl, splitRule_sound⟩
  all_goals refine isRule_of_plain (fun _ => by unfold exec; exact rfl) ?_
  case nop => exact fun _ _ => ok_sound rfl
  case li | lih | mov | gf8Add | gf8Mul | gf8Pow | gf8Exp | gf10Add | gf10Mul | gf10Pow =>
    exact fun _ _ => okReg_sound _ _
  case gf8Inv | gf8Log | gf10Inv => exact fun _ _ => check_sound fun _ => okReg_sound _ _
  case ldb | ldh => exact fun _ _ => withRegions_sound fun _ => okReg_sound _ _
  case stb | sth => exact fun _ _ => withRegions_sound fun hr => ok_sound (hr _ (.head _))
  case wipe => exact fun _ _ => withRegions_sound fun hr => ok_sound (by simpa using hr)
  case sssInterp => exact interpRule_sound
  case sssDigest rd => exact digestRule_sound rd
  case sssRecon => exact reconRule_sound
  case fstRound round => exact fstRoundRule_sound round
  case fstEnc => exact fstCipherRule_sound [0, 1, 2, 3]
  case fstDec => exact fstCipherRule_sound [3, 2, 1, 0]
  case rsPolymod rd => exact polymodRule_sound rd
  case rsCreate rd ext => exact createRule_sound rd ext
  case rsVerify rd ext => exact verifyRule_sound rd ext
  case codecEnc rd => exact encRule_sound rd
  case codecDec => exact decRule_sound

/-- A word is run as a rule too: its command's, or the taking of ILLEGAL_COMMAND. -/
theorem runWord_isRule (w : Word) : ∃ rule : Rule, rule.Runs (runWord w) ∧ rule.Sound := by
  cases h : decode w with
  | ok i =>
    obtain ⟨rule, hruns, hsound⟩ := exec_isRule i
    exact ⟨rule, fun s => by simpa [runWord, h] using hruns s, hsound⟩
  | error e =>
    exact ⟨fun _ _ _ => .err .illegalCommand w, fun s => by simp [runWord, h, runRule_eq],
      fun _ _ _ => ErrCode.noConfusion⟩

/-- The engine runs the pending word. -/
theorem engineMove_pending {s : State} {p : Pending} (h : s.pending = some p) :
    engineMove s = runWord p.word s := by simp [engineMove, h]

/-! ### The invariant -/

section States

variable {s t : State}

/-- The invariant speaks of the architectural state only. -/
theorem State.Inv.of_archKept (h : s.Inv) (k : s.ArchKept t) : t.Inv where
  bufCanonical := by rw [k.buf]; exact h.bufCanonical
  bufInRange := by rw [k.buf, k.bufSize]; exact h.bufInRange
  sizeLegal := by rw [k.bufSize]; exact h.sizeLegal
  busyIffPending := by rw [k.busy, k.pending]; exact h.busyIffPending
  busyFlags := by rw [k.busy, k.done, k.err, k.errCode]; exact h.busyFlags
  snapshotCurrent := by rw [k.pending, k.g, k.buf]; exact h.snapshotCurrent
  noErrNoRecord := by rw [k.err, k.errCode, k.errInfo]; exact h.noErrNoRecord
  errCodeLegal := by rw [k.err, k.errCode]; exact h.errCodeLegal
  scratchZero := by rw [k.scratch]; exact h.scratchZero

theorem State.Inv.pending_of_idle (h : s.Inv) (hb : s.busy = false) : s.pending = none := by
  simpa [hb] using h.busyIffPending

/-- Completion with an outcome it can take leaves an idle core with a legal record or none
(60_exceptions.md R305). -/
theorem State.Inv.complete (h : s.Inv) {r : Result} (hr : r.Sound s.bufSize) :
    (s.complete r).Inv := by
  cases r with
  | ok e =>
    exact {
      bufCanonical := Memory.wf_writeBytes _ _ h.bufCanonical
      bufInRange := Memory.below_writeBytes _ _ hr h.bufInRange
      sizeLegal := h.sizeLegal
      busyIffPending := rfl
      busyFlags := Bool.noConfusion
      snapshotCurrent := fun _ hp => by cases hp
      noErrNoRecord := fun _ => ⟨rfl, rfl⟩
      errCodeLegal := Bool.noConfusion
      scratchZero := rfl }
  | err c info =>
    exact {
      bufCanonical := h.bufCanonical
      bufInRange := h.bufInRange
      sizeLegal := h.sizeLegal
      busyIffPending := rfl
      busyFlags := Bool.noConfusion
      snapshotCurrent := fun _ hp => by cases hp
      noErrNoRecord := Bool.noConfusion
      errCodeLegal := fun _ => legalErrCode_code hr
      scratchZero := rfl }

theorem State.Inv.engineMove (h : s.Inv) (ht : engineMove s = .next t) : t.Inv := by
  cases hp : s.pending with
  | none =>
    simp only [Machine.engineMove, hp, Host.Outcome.next.injEq] at ht
    exact ht ▸ h
  | some p =>
    obtain ⟨rule, hruns, hsound⟩ := runWord_isRule p.word
    rw [engineMove_pending hp, hruns, runRule_eq, Host.Outcome.next.injEq] at ht
    exact ht ▸ h.complete (hsound _ _ _)

/-! ### Host reads -/

theorem takeEvent_hostRead (s : State) (off bytes : Nat) :
    takeEvent (.hostRead off bytes) s = hostAccess s off bytes s.readTarget := rfl

theorem takeEvent_hostWrite (s : State) (off bytes : Nat) (v : Word) :
    takeEvent (.hostWrite off bytes v) s = hostAccess s off bytes fun x => s.writeTarget x v := rfl

/-- The model's own bus fields are no part of the architectural state (10_state.md R50). -/
theorem State.archKept_busFields (s : State) (es : List Event) (d : Option Word) (n : Nat) :
    s.ArchKept { s with inputs := es, readData := d, freeCount := n } :=
  ⟨rfl, rfl, rfl, rfl, rfl, rfl, rfl, rfl, rfl, rfl, rfl, rfl, ⟨rfl, rfl⟩⟩

/-- What a host read can do: return a word, and hand out a free value at most (20_memory.md R76). -/
theorem State.readTarget_cases (s : State) (x : Target) :
    ∃ w n, s.readTarget x = { s with readData := some w, freeCount := n } := by
  cases x
  case reg | bufWord =>
    simp only [State.readTarget]
    split_ifs <;> exact ⟨_, _, rfl⟩
  all_goals exact ⟨_, _, rfl⟩

/-- A host read taken off the events changes nothing of the architectural state. -/
theorem State.archKept_readTarget (s : State) (es : List Event) (x : Target) :
    s.ArchKept (State.readTarget { s with inputs := es } x) := by
  obtain ⟨w, n, he⟩ := State.readTarget_cases { s with inputs := es } x
  rw [he]
  exact s.archKept_busFields es (some w) n

/-- A 32-bit aligned read inside the window is one step. -/
theorem step_hostRead {off : Nat} {rest : List Event} (h : s.inputs = .hostRead off 4 :: rest)
    (ha : off % 4 = 0) (hw : off < 0x1000 + s.bufSize) :
    step s = .next (State.readTarget { s with inputs := rest } (targetOf off)) := by
  rw [step_event h, takeEvent_hostRead]
  exact hostAccess_ok ha hw

/-- A 32-bit aligned write inside the window is one step. -/
theorem step_hostWrite {off : Nat} {v : Word} {rest : List Event}
    (h : s.inputs = .hostWrite off 4 v :: rest) (ha : off % 4 = 0) (hw : off < 0x1000 + s.bufSize) :
    step s = .next (State.writeTarget { s with inputs := rest } (targetOf off) v) := by
  rw [step_event h, takeEvent_hostWrite]
  exact hostAccess_ok ha hw

/-! ### The address map -/

theorem targetOf_eq_ctrl {off : Nat} (h : targetOf off = .ctrl) : off = 0x004 := by
  unfold targetOf at h
  split_ifs at h with h0 h4
  exact h4

/-- The register window's offsets (20_memory.md R77). -/
theorem targetOf_reg (r : Reg) : targetOf (0x040 + 4 * r.val) = .reg r := by
  have hr : Fin.ofNat 16 ((0x040 + 4 * r.val - 0x040) / 4) = r :=
    Fin.ext (by rw [Fin.val_ofNat]; omega)
  unfold targetOf
  iterate 6 rw [if_neg (by omega)]
  rw [if_pos (by omega), hr]

/-- The offsets between the register blocks name nothing (10_state.md R44). -/
theorem targetOf_reserved {off : Nat}
    (h : (0x018 ≤ off ∧ off ≤ 0x03C) ∨ (0x080 ≤ off ∧ off ≤ 0xFFC)) :
    targetOf off = .reserved := by
  unfold targetOf
  iterate 8 rw [if_neg (by omega)]

/-- An aligned offset in the BUF window names four bytes inside BUF (20_memory.md R78). -/
theorem targetOf_bufWord_inRange {off size a : Nat} (h : targetOf off = .bufWord a)
    (ha : off % 4 = 0) (hw : off < 0x1000 + size) (hs : size % 4 = 0) : a + 4 ≤ size := by
  unfold targetOf at h
  split_ifs at h with h0 h1 h2 h3 h4 h5 h6 h7
  have haddr := Target.bufWord.inj h
  omega

/-! ### Host writes -/

theorem State.clearDone_if (s : State) (b : Bool) :
    (if b then s.clearDone else s) = { s with done := s.done && !b } := by
  cases b <;> simp [State.clearDone]

theorem State.clearErr_if (s : State) (b : Bool) :
    (if b then s.clearErr else s) = { s with
      err := s.err && !b
      errCode := if b then 0 else s.errCode
      errInfo := if b then 0 else s.errInfo } := by
  cases b <;> simp [State.clearErr]

theorem State.clearOvr_if (s : State) (b : Bool) :
    (if b then s.clearOvr else s) = { s with ovr := s.ovr && !b } := by
  cases b <;> simp [State.clearOvr]

/-- A STATUS write, field by field: write-1-to-clear of DONE, ERR with its record, and OVR
(10_state.md R39). -/
theorem State.writeStatus_eq (s : State) (v : Word) :
    s.writeStatus v = { s with
      done := s.done && !v.getLsbD 1
      err := s.err && !v.getLsbD 2
      errCode := if v.getLsbD 2 then 0 else s.errCode
      errInfo := if v.getLsbD 2 then 0 else s.errInfo
      ovr := s.ovr && !v.getLsbD 3 } := by
  simp only [State.writeStatus, State.clearDone_if, State.clearErr_if, State.clearOvr_if]

@[simp] theorem State.loseAbandonedDraws_bufSize (s : State) :
    s.loseAbandonedDraws.bufSize = s.bufSize := by
  unfold State.loseAbandonedDraws
  split_ifs <;> rfl

@[simp] theorem State.loseAbandonedDraws_inputs (s : State) :
    s.loseAbandonedDraws.inputs = s.inputs := by
  unfold State.loseAbandonedDraws
  split_ifs <;> rfl

/-- No write touches the events still to come. -/
theorem State.writeTarget_inputs (s : State) (x : Target) (v : Word) :
    (s.writeTarget x v).inputs = s.inputs := by
  cases x
  case ctrl => simp only [State.writeTarget, State.writeCtrl]; split_ifs <;> simp [State.resetNow]
  case status => simp only [State.writeTarget, State.writeStatus_eq]
  case cmd | reg | bufWord => simp only [State.writeTarget]; split_ifs <;> rfl
  all_goals rfl

/-! ### The invariant through host writes and resets -/

/-- The invariant does not speak of OVR and IE. -/
theorem State.Inv.withHostFlags (h : s.Inv) (ovr ie : Bool) :
    State.Inv { s with ovr := ovr, ie := ie } :=
  { bufCanonical := h.bufCanonical, bufInRange := h.bufInRange, sizeLegal := h.sizeLegal
    busyIffPending := h.busyIffPending, busyFlags := h.busyFlags
    snapshotCurrent := h.snapshotCurrent, noErrNoRecord := h.noErrNoRecord
    errCodeLegal := h.errCodeLegal, scratchZero := h.scratchZero }

/-- A reset leaves every field at its reset value but BUF_SIZE (70_reset_and_hazards.md R340). -/
theorem State.Inv.resetNow (h : s.Inv) : s.resetNow.Inv where
  bufCanonical := reset_buf_wf
  bufInRange := rfl
  sizeLegal := by
    rw [State.resetNow, State.resetCore_bufSize, State.loseAbandonedDraws_bufSize]
    exact h.sizeLegal
  busyIffPending := rfl
  busyFlags := Bool.noConfusion
  snapshotCurrent := fun _ hp => by cases hp
  noErrNoRecord := fun _ => ⟨rfl, rfl⟩
  errCodeLegal := Bool.noConfusion
  scratchZero := rfl

/-- Clearing status bits clears the record with ERR and never sets a flag (10_state.md R39). -/
theorem State.Inv.writeStatus (h : s.Inv) (v : Word) : (s.writeStatus v).Inv := by
  rw [State.writeStatus_eq]
  exact {
    bufCanonical := h.bufCanonical, bufInRange := h.bufInRange, sizeLegal := h.sizeLegal
    busyIffPending := h.busyIffPending, snapshotCurrent := h.snapshotCurrent
    scratchZero := h.scratchZero
    busyFlags := fun hb => by
      obtain ⟨hdone, herr, hcode⟩ := h.busyFlags hb
      simp [hdone, herr, hcode]
    noErrNoRecord := by
      cases v.getLsbD 2 with
      | true => exact fun _ => ⟨rfl, rfl⟩
      | false => exact fun he => h.noErrNoRecord (by simpa using he)
    errCodeLegal := by
      cases v.getLsbD 2 with
      | true => exact fun he => by simp at he
      | false => exact fun he => h.errCodeLegal (by simpa using he) }

/-- Acceptance takes the snapshot that the host still sees, and clears the record
(60_exceptions.md R300). -/
theorem State.Inv.accept (h : s.Inv) (w : Word) : (s.accept w).Inv where
  bufCanonical := h.bufCanonical
  bufInRange := h.bufInRange
  sizeLegal := h.sizeLegal
  busyIffPending := rfl
  busyFlags := fun _ => ⟨rfl, rfl, rfl⟩
  snapshotCurrent := fun p hp => by cases hp; rfl
  noErrNoRecord := fun _ => ⟨rfl, rfl⟩
  errCodeLegal := Bool.noConfusion
  scratchZero := h.scratchZero

/-- An idle core has no snapshot to keep, so its registers and BUF may change inside BUF_SIZE. -/
theorem State.Inv.withContents (h : s.Inv) (hb : s.busy = false) {g : Regs} {buf : Memory}
    (hwf : buf.wf = true) (hbelow : buf.below s.bufSize = true) :
    State.Inv { s with g := g, buf := buf } :=
  { bufCanonical := hwf, bufInRange := hbelow, sizeLegal := h.sizeLegal
    busyIffPending := h.busyIffPending, busyFlags := h.busyFlags
    snapshotCurrent := fun p hp => by
      have hnone : s.pending = none := h.pending_of_idle hb
      rw [hnone] at hp; cases hp
    noErrNoRecord := h.noErrNoRecord, errCodeLegal := h.errCodeLegal
    scratchZero := h.scratchZero }

theorem State.Inv.writeTarget (h : s.Inv) (x : Target) (v : Word)
    (hx : ∀ a, x = .bufWord a → a + 4 ≤ s.bufSize) : (s.writeTarget x v).Inv := by
  have hdropped : s.setOvr.Inv := h.withHostFlags true s.ie
  cases x with
  | id | errInfo | bufSize | reserved => exact h
  | ctrl =>
    simp only [State.writeTarget, State.writeCtrl]
    split_ifs
    · exact h.resetNow
    · exact h.withHostFlags s.ovr _
  | status => exact h.writeStatus v
  | cmd =>
    simp only [State.writeTarget]
    split_ifs
    · exact hdropped
    · exact h.accept v
  | reg i =>
    simp only [State.writeTarget]
    split_ifs with hb
    · exact hdropped
    · exact h.withContents (by simpa using hb) h.bufCanonical h.bufInRange
  | bufWord a =>
    simp only [State.writeTarget]
    split_ifs with hb
    · exact hdropped
    · exact h.withContents (by simpa using hb) (Memory.wf_writeBytes _ _ h.bufCanonical)
        (Memory.below_writeBytes _ _ (.inr (hx a rfl)) h.bufInRange)

theorem State.Inv.bufSize_mod_four (h : s.Inv) : s.bufSize % 4 = 0 := by
  have hlegal := h.sizeLegal
  simp only [Config.bufSizeLegal, Bool.and_eq_true, beq_iff_eq] at hlegal
  exact hlegal.1.1

/-- Every event that the core takes keeps the invariant. -/
theorem State.Inv.takeEvent (h : s.Inv) {e : Event} (ht : takeEvent e s = .next t) : t.Inv := by
  cases e with
  | hostRead offset bytes =>
    rw [takeEvent_hostRead] at ht
    obtain ⟨-, -, -, rfl⟩ := hostAccess_next ht
    exact h.of_archKept (s.archKept_readTarget s.inputs _)
  | hostWrite offset bytes v =>
    rw [takeEvent_hostWrite] at ht
    obtain ⟨-, ha, hw, rfl⟩ := hostAccess_next ht
    exact h.writeTarget _ _ fun a hx => targetOf_bufWord_inRange hx ha hw h.bufSize_mod_four
  | engineMoves => exact h.engineMove ht
  | hardReset => cases ht; exact h.resetNow

/-! ### What a running command cannot see -/

/-- All that the completion of the pending command reads, or writes besides the flags, is as it was. -/
structure State.CommandKept (s t : State) : Prop where
  g : t.g = s.g
  buf : t.buf = s.buf
  pending : t.pending = s.pending
  bufSize : t.bufSize = s.bufSize
  entropy : s.EntropyKept t

theorem State.ArchKept.commandKept (k : s.ArchKept t) : s.CommandKept t :=
  ⟨k.g, k.buf, k.pending, k.bufSize, k.entropy⟩

theorem State.CommandKept.withInputs (k : s.CommandKept t) (es es' : List Event) :
    State.CommandKept { s with inputs := es } { t with inputs := es' } :=
  ⟨k.g, k.buf, k.pending, k.bufSize, ⟨k.entropy.pos, k.entropy.injected⟩⟩

theorem State.CommandKept.view (k : s.CommandKept t) : t.view = s.view := by
  simp only [State.view, k.pending, k.g, k.buf]

theorem State.CommandKept.entropyAhead (k : s.CommandKept t) : t.entropyAhead = s.entropyAhead := by
  funext n
  simp only [State.entropyAhead, k.entropy.pos, k.entropy.injected]

/-- While BUSY, a write that is no soft reset reaches no more than STATUS and CTRL
(70_reset_and_hazards.md R350). -/
theorem State.commandKept_writeTarget (hb : s.busy = true) {x : Target} {v : Word}
    (hx : x = .ctrl → v.getLsbD 1 = false) : s.CommandKept (s.writeTarget x v) := by
  cases x with
  | ctrl =>
    simp only [State.writeTarget, State.writeCtrl, hx rfl]
    exact ⟨rfl, rfl, rfl, rfl, ⟨rfl, rfl⟩⟩
  | status =>
    simp only [State.writeTarget, State.writeStatus_eq]
    exact ⟨rfl, rfl, rfl, rfl, ⟨rfl, rfl⟩⟩
  | cmd | reg | bufWord =>
    simp only [State.writeTarget, hb]
    exact ⟨rfl, rfl, rfl, rfl, ⟨rfl, rfl⟩⟩
  | id | errInfo | bufSize | reserved => exact ⟨rfl, rfl, rfl, rfl, ⟨rfl, rfl⟩⟩

/-- A host access that is no soft reset. -/
def Event.AccessShortOfReset (e : Event) : Prop :=
  (∃ off n, e = .hostRead off n) ∨
    ∃ off n v, e = .hostWrite off n v ∧ ¬ (off = 0x004 ∧ v.getLsbD 1 = true)

/-- While BUSY, a host access short of a reset leaves the running command's side of the core alone, and
the events to come. -/
theorem takeEvent_commandKept {e : Event} (he : e.AccessShortOfReset) (hb : s.busy = true)
    (ht : takeEvent e s = .next t) : s.CommandKept t ∧ t.inputs = s.inputs := by
  rcases he with ⟨off, n, rfl⟩ | ⟨off, n, v, rfl, hsrst⟩
  · rw [takeEvent_hostRead] at ht
    obtain ⟨-, -, -, rfl⟩ := hostAccess_next ht
    obtain ⟨w, m, hr⟩ := s.readTarget_cases (targetOf off)
    exact ⟨(s.archKept_readTarget s.inputs _).commandKept, by rw [hr]⟩
  · rw [takeEvent_hostWrite] at ht
    obtain ⟨-, -, -, rfl⟩ := hostAccess_next ht
    refine ⟨State.commandKept_writeTarget hb fun hx => ?_, s.writeTarget_inputs _ v⟩
    simpa [targetOf_eq_ctrl hx] using hsrst

/-- The engine gives the pending command one outcome in two states that the command cannot tell
apart. -/
theorem engineMove_of_commandKept {p : Pending} (k : s.CommandKept t) (hp : s.pending = some p) :
    ∃ r, engineMove s = .next (s.complete r) ∧ engineMove t = .next (t.complete r) := by
  obtain ⟨rule, hruns, -⟩ := runWord_isRule p.word
  refine ⟨rule s.entropyAhead s.bufSize s.view, ?_, ?_⟩
  · rw [engineMove_pending hp, hruns, runRule_eq]
  · rw [engineMove_pending (k.pending.trans hp), hruns, runRule_eq, k.entropyAhead, k.bufSize, k.view]

/-- One outcome completed in two such states writes the same. -/
theorem complete_of_commandKept (k : s.CommandKept t) (r : Result) :
    (t.complete r).g = (s.complete r).g ∧ (t.complete r).buf = (s.complete r).buf ∧
      (t.complete r).err = (s.complete r).err ∧ (t.complete r).errCode = (s.complete r).errCode ∧
      (t.complete r).errInfo = (s.complete r).errInfo ∧
      (t.complete r).entropyPos = (s.complete r).entropyPos ∧
      (t.complete r).entropyIn = (s.complete r).entropyIn := by
  cases r <;> simp [k.g, k.buf, k.entropy.pos, k.entropy.injected]

/-! ### Bits of STATUS and CTRL -/

theorem flagBit_getLsbD (b : Bool) {pos k : Nat} (hk : k < 32) :
    (flagBit b pos).getLsbD k = (decide (k = pos) && b) := by
  by_cases h : k = pos
  · subst h; simp [flagBit, hk]
  · simp [flagBit, hk, h]; omega

/-- STATUS as a host reads it, bit by bit (10_state.md R39). -/
theorem State.statusWord_getLsbD (s : State) {k : Nat} (hk : k < 32) :
    s.statusWord.getLsbD k = ((decide (8 ≤ k) && s.errCode.getLsbD (k - 8)) ||
      (decide (k = 3) && s.ovr) || (decide (k = 2) && s.err) || (decide (k = 1) && s.done) ||
      (decide (k = 0) && s.busy)) := by
  have hcode : (s.errCode.setWidth 32 <<< 8).getLsbD k =
      (decide (8 ≤ k) && s.errCode.getLsbD (k - 8)) := by
    by_cases h : 8 ≤ k <;> simp [hk, h]
  simp only [State.statusWord, BitVec.getLsbD_or, flagBit_getLsbD _ hk, hcode]

/-- Above the four flags, STATUS holds ERRCODE from bit 8 on. -/
theorem State.statusWord_getLsbD_above_flags (s : State) {k : Nat} (h4 : 4 ≤ k) (hk : k < 32) :
    s.statusWord.getLsbD k = (decide (8 ≤ k) && s.errCode.getLsbD (k - 8)) := by
  obtain ⟨h0, h1, h2, h3⟩ : k ≠ 0 ∧ k ≠ 1 ∧ k ≠ 2 ∧ k ≠ 3 := by omega
  simp [s.statusWord_getLsbD hk, h0, h1, h2, h3]

theorem State.statusWord_reserved_low (s : State) : s.statusWord.extractLsb' 4 4 = 0 := by
  apply BitVec.eq_of_getLsbD_eq
  intro k hk
  have h8 : ¬ 8 ≤ 4 + k := by omega
  rw [BitVec.getLsbD_extractLsb', s.statusWord_getLsbD_above_flags (by omega) (by omega)]
  simp [h8]

theorem State.statusWord_errCode (s : State) : s.statusWord.extractLsb' 8 8 = s.errCode := by
  apply BitVec.eq_of_getLsbD_eq
  intro k hk
  rw [BitVec.getLsbD_extractLsb', s.statusWord_getLsbD_above_flags (by omega) (by omega)]
  simp [hk]

theorem State.statusWord_reserved_high (s : State) : s.statusWord.extractLsb' 16 16 = 0 := by
  apply BitVec.eq_of_getLsbD_eq
  intro k hk
  rw [BitVec.getLsbD_extractLsb', s.statusWord_getLsbD_above_flags (by omega) (by omega),
    BitVec.getLsbD_of_ge _ _ (by omega)]
  simp

theorem State.ctrlWord_eq (s : State) : s.ctrlWord = if s.ie then 1 else 0 := by
  unfold State.ctrlWord
  cases s.ie <;> rfl

/-! ### Reads with a fixed answer -/

/-- A read whose target answers w returns w and changes nothing of the core. -/
theorem step_hostRead_returns {off : Nat} {rest : List Event} {w : Word}
    (h : s.inputs = .hostRead off 4 :: rest) (ha : off % 4 = 0) (hw : off < 0x1000 + s.bufSize)
    (hx : State.readTarget { s with inputs := rest } (targetOf off) =
      State.returnWord { s with inputs := rest } w) :
    ∃ t, step s = .next t ∧ t.readData = some w ∧ s.ArchKept t :=
  ⟨_, step_hostRead h ha hw, by rw [hx]; rfl, s.archKept_readTarget rest _⟩

/-- A write that its target ignores changes nothing of the core. -/
theorem step_hostWrite_ignored {off : Nat} {v : Word} {rest : List Event}
    (h : s.inputs = .hostWrite off 4 v :: rest) (ha : off % 4 = 0) (hw : off < 0x1000 + s.bufSize)
    (hx : State.writeTarget { s with inputs := rest } (targetOf off) v =
      { s with inputs := rest }) :
    ∃ t, step s = .next t ∧ s.ArchKept t :=
  ⟨_, step_hostWrite h ha hw, by
    rw [hx]; exact s.archKept_busFields rest s.readData s.freeCount⟩

end States

/-! ### The statements of 10_state.md -/

/-- Settles O13. -/
theorem irqIsEnableAndDone : Obligations.IrqIsEnableAndDone :=
  ⟨fun s => by simp only [State.irq, Bool.and_eq_true], rfl⟩

/-- Settles O24: the case split over the events, on top of what each of them keeps. -/
theorem everyStepKeepsTheInvariant : Obligations.EveryStepKeepsTheInvariant := by
  intro s t h ht
  cases hin : s.inputs with
  | nil =>
    rw [step_idle hin] at ht
    exact h.engineMove ht
  | cons e rest =>
    rw [step_event hin] at ht
    exact (h.of_archKept (s.archKept_busFields rest s.readData s.freeCount)).takeEvent ht

/-- Settles O14, from the field-by-field equation of the write and the bits of the word read. -/
theorem statusReadsAndClears : Obligations.StatusReadsAndClears := by
  intro s v rest
  refine ⟨fun hin => ?_, fun hin => ?_⟩
  · refine ⟨_, step_hostWrite hin rfl (by omega), ?_⟩
    have hx : State.writeTarget { s with inputs := rest } (targetOf 0x008) v =
        State.writeStatus { s with inputs := rest } v := rfl
    rw [hx, State.writeStatus_eq]
    exact ⟨rfl, rfl, rfl, fun hv => by rw [hv]; exact ⟨rfl, rfl⟩,
      fun hv => by rw [hv]; exact ⟨rfl, rfl⟩, rfl, rfl, rfl, rfl, rfl, rfl, rfl, ⟨rfl, rfl⟩⟩
  · obtain ⟨t, ht, hread, hkept⟩ :=
      step_hostRead_returns (w := s.statusWord) hin rfl (by omega) rfl
    refine ⟨t, s.statusWord, ht, hread, hkept, ?_, ?_, ?_, ?_, s.statusWord_reserved_low,
      s.statusWord_errCode, s.statusWord_reserved_high⟩
    all_goals rw [s.statusWord_getLsbD (by omega)]; simp

/-- Settles O16: the write changes one register, the read after it returns that register. -/
theorem registerWindowReadsBack : Obligations.RegisterWindowReadsBack := by
  intro s r v rest hb hin
  have hoff : (0x040 + 4 * r.val) % 4 = 0 := by omega
  have hwrite : step s = .next
      { s with inputs := .hostRead (0x040 + 4 * r.val) 4 :: rest, g := s.g.write r v } := by
    rw [step_hostWrite hin hoff (by omega), targetOf_reg]
    simp [State.writeTarget, hb]
  obtain ⟨u, hu, hread, hkept⟩ := step_hostRead_returns
    (s := { s with inputs := .hostRead (0x040 + 4 * r.val) 4 :: rest, g := s.g.write r v })
    (w := v) rfl hoff (by omega)
    (by rw [targetOf_reg]; simp [State.readTarget, hb, Regs.read_write_same])
  refine ⟨_, u, hwrite, hu, ⟨?_, ?_⟩, rfl, hread, hkept⟩
  · simpa using Regs.read_write_same s.g r v
  · intro q hq
    exact Regs.read_write_other s.g v (by simpa using hq)

/-- Settles O18: every clause is a read with a fixed answer or an ignored write. -/
theorem controlRegistersReadAndIgnoreWrites : Obligations.ControlRegistersReadAndIgnoreWrites := by
  intro s off v rest ha
  refine ⟨fun hin => ⟨?_, ?_, ?_, ?_, ?_, fun hoff => ?_⟩, fun hin hoff => ?_⟩
  · rintro rfl; exact step_hostRead_returns hin ha (by omega) rfl
  · rintro rfl; rw [← s.ctrlWord_eq]; exact step_hostRead_returns hin ha (by omega) rfl
  · rintro rfl; exact step_hostRead_returns hin ha (by omega) rfl
  · rintro rfl; exact step_hostRead_returns hin ha (by omega) rfl
  · rintro rfl; exact step_hostRead_returns hin ha (by omega) rfl
  · exact step_hostRead_returns hin ha (by omega) (by rw [targetOf_reserved hoff]; rfl)
  · refine step_hostWrite_ignored hin ha (by omega) ?_
    rcases hoff with rfl | rfl | rfl | hoff
    · rfl
    · rfl
    · rfl
    · rw [targetOf_reserved hoff]; rfl

/-- Settles O25: the access leaves the command's side alone, so the engine's move has one outcome. -/
theorem hostCannotChangeARunningCommand : Obligations.HostCannotChangeARunningCommand := by
  intro s s1 p e rest hb hp he hin hs1
  rw [step_event hin] at hs1
  obtain ⟨hkept, hin1⟩ := takeEvent_commandKept (s := { s with inputs := .engineMoves :: rest })
    he hb hs1
  have hmove := hkept.withInputs rest rest
  obtain ⟨r, hr, hr1⟩ := engineMove_of_commandKept hmove hp
  refine ⟨_, _, ?_, ?_, complete_of_commandKept hmove r⟩
  · rw [step_event rfl]; exact hr
  · rw [step_event hin1]; exact hr1

end Sys2Proof.Machine

namespace Sys2Proof.Machine

/-! SUPPORT. The region check that every command makes first, and what a raise leaves behind
(20_memory.md R75, 60_exceptions.md R303, R306). -/

/-! ### The first region out of range -/

theorem firstOutOfRange_append_cons {size a m : Nat} {pre post : List (Nat × Nat)}
    (hpre : ∀ r ∈ pre, inRange size r = true) (hbad : ¬ inRange size (a, m) = true) :
    firstOutOfRange size (pre ++ (a, m) :: post) = some a := by
  induction pre with
  | nil => simp [firstOutOfRange, hbad]
  | cons r pre ih =>
    obtain ⟨hr, hrest⟩ := List.forall_mem_cons.1 hpre
    simpa [firstOutOfRange, hr] using ih hrest

/-- The regions before the first bad one do not matter, nor do those after it, nor the checked body. -/
theorem withRegions_append_cons {size a m : Nat} {pre post : List (Nat × Nat)}
    (hpre : ∀ r ∈ pre, RegionOk size r) (hbad : ¬ RegionOk size (a, m)) (body : Result) :
    withRegions size (pre ++ (a, m) :: post) body = raise .bufRange a := by
  have hfirst : firstOutOfRange size (pre ++ (a, m) :: post) = some a :=
    firstOutOfRange_append_cons (fun r hr => (inRange_iff _ _ _).2 (hpre r hr))
      fun h => hbad ((inRange_iff _ _ _).1 h)
  simp only [withRegions, hfirst]

theorem withRegions_of_regionOk {size : Nat} {rs : List (Nat × Nat)}
    (h : ∀ r ∈ rs, RegionOk size r) (body : Result) : withRegions size rs body = body :=
  withRegions_of_inRange fun r hr => (inRange_iff _ _ _).2 (h r hr)

/-- Every command checks the regions of `regionsOf`, in that order, before the rest of its rule: the
one case split over the commands. A command without regions checks the empty list. -/
theorem exec_eq_complete_withRegions (i : Instr) (s : State) :
    ∃ body, exec i s =
      .next (s.complete (withRegions s.bufSize (regionsOf i s.view) body)) := by
  cases i <;> exact ⟨_, rfl⟩

/-! ### CODEC.DEC's second region -/

/-- A share word count that passes CODEC.DEC's length checks reaches the check of its output region
(45_codec.md R258). -/
theorem decRule_of_length {size : Nat} {v : Snapshot}
    (hin : ∀ r ∈ regionsOf .codecDec v, RegionOk size r) (hlen : 20 ≤ v.regNat 2)
    (hpad : decodedPad (v.regNat 2) ≤ 8) :
    ∃ body, decRule size v =
      withRegions size [(v.regNat 3, decodedLength (v.regNat 2))] body :=
  ⟨_, (withRegions_of_regionOk hin _).trans
    ((if_neg (Nat.not_lt.2 hlen)).trans (if_neg (Nat.not_lt.2 hpad)))⟩

theorem Snapshot.ofNat_regNat (v : Snapshot) (r : Reg) : BitVec.ofNat 32 (v.regNat r) = v.reg r := by
  simp [Snapshot.regNat]

/-! ### What a raise leaves behind -/

/-- Taking an error is a completion with that error (60_exceptions.md R305, R306). -/
theorem State.completedErr_takeError (s : State) (c : ErrCode) (info : Word) :
    s.CompletedErr (s.takeError c info) c info :=
  ⟨rfl, rfl, rfl, rfl, rfl, rfl, rfl, rfl, rfl, ⟨rfl, rfl⟩, ⟨rfl, rfl, rfl, rfl, rfl, rfl⟩⟩

end Sys2Proof.Machine

namespace Sys2Proof.Machine

/-! CLAIMS. Regions out of range, the BUF window, and the host accesses outside the spec
(20_memory.md). -/

/-! ### The BUF window -/

theorem targetOf_bufWord (a : Nat) : targetOf (0x1000 + a) = .bufWord a := by
  unfold targetOf
  iterate 7 rw [if_neg (by omega)]
  rw [if_pos (by omega), Nat.add_sub_cancel_left]

theorem toNat_append_byte {w : Nat} (x : BitVec w) (b : Byte) :
    (x ++ b).toNat = x.toNat * 2 ^ 8 + b.toNat := by
  rw [BitVec.toNat_append, ← Nat.shiftLeft_add_eq_or_of_lt b.isLt, Nat.shiftLeft_eq]

/-- Four bytes as a word, the first most significant (20_memory.md R71, R78). -/
theorem toNat_wordOfBytes (b0 b1 b2 b3 : Byte) :
    (wordOfBytes b0 b1 b2 b3).toNat =
      b0.toNat * 2 ^ 24 + b1.toNat * 2 ^ 16 + b2.toNat * 2 ^ 8 + b3.toNat := by
  simp only [wordOfBytes, toNat_append_byte]
  ring

section States

variable {s : State}

/-- A byte string written to a canonical BUF stands there, and every byte outside it is kept. -/
theorem State.bufWritten_writeBytes {t : State} {a : Nat} {bs : List Byte} (hwf : s.buf.wf = true)
    (ht : t.buf = s.buf.writeBytes a bs) : s.BufWritten t a bs := by
  refine ⟨?_, fun b hb => ?_⟩
  · rw [ht]; exact Memory.readBytes_writeBytes a bs hwf
  · rw [ht]; exact Memory.read_writeBytes_other bs s.buf a b hb

/-! ### Accesses outside the spec -/

/-- Every host access to come is judged by its width and offset first, whatever it would do. -/
theorem step_hostAccess {off bytes : Nat} {v : Word} {rest : List Event} {e : Event}
    (he : e = .hostRead off bytes ∨ e = .hostWrite off bytes v) (hin : s.inputs = e :: rest) :
    ∃ effect, step s = hostAccess { s with inputs := rest } off bytes effect := by
  rw [step_event hin]
  rcases he with rfl | rfl
  · exact ⟨_, takeEvent_hostRead _ _ _⟩
  · exact ⟨_, takeEvent_hostWrite _ _ _ _⟩

theorem hostAccess_width {off bytes : Nat} {effect : Target → State} (hbytes : bytes ≠ 4) :
    hostAccess s off bytes effect = .refused .hostAccessWidth :=
  if_pos hbytes

theorem hostAccess_unaligned {off : Nat} {effect : Target → State} (ha : off % 4 ≠ 0) :
    hostAccess s off 4 effect = .refused .hostAccessUnaligned := by
  simp [hostAccess, ha]

theorem hostAccess_beyond {off : Nat} {effect : Target → State} (ha : off % 4 = 0)
    (hw : 0x1000 + s.bufSize ≤ off) :
    hostAccess s off 4 effect = .fault .offsetOutsideWindow := by
  simp [hostAccess, ha, hw]

end States

/-! ### The statements of 20_memory.md -/

/-- Settles O11: the command's rule opens with the check of its regions, and CODEC.DEC's checks of the
length lead to its second region. -/
theorem firstRegionOutOfRangeIsReported : Obligations.FirstRegionOutOfRangeIsReported := by
  intro s
  refine ⟨fun i pre post a m hregions hpre hbad => ?_, fun hin hlen hpad hbad => ?_⟩
  · obtain ⟨body, hexec⟩ := exec_eq_complete_withRegions i s
    rw [hregions, withRegions_append_cons hpre hbad] at hexec
    exact ⟨_, hexec, s.completedErr_takeError _ _⟩
  · obtain ⟨body, hrule⟩ := decRule_of_length hin hlen hpad
    have hraise : decRule s.bufSize s.view = raise .bufRange (s.view.regNat 3) :=
      hrule.trans (withRegions_append_cons (pre := []) (by simp) hbad body)
    refine ⟨s.takeError .bufRange (s.view.reg 3), ?_, s.completedErr_takeError _ _⟩
    calc exec .codecDec s = .next (s.complete (decRule s.bufSize s.view)) := rfl
      _ = .next (s.takeError .bufRange (s.view.reg 3)) := by
        rw [hraise, raise_eq, Snapshot.ofNat_regNat, State.complete_err]

/-- Settles O17: the offset names BUF address 4k, so the access is a read or a write of its four
bytes, which BUSY = 1 drops. -/
theorem bufWindowIsBigEndian : Obligations.BufWindowIsBigEndian := by
  intro s k v rest hwf _ hk
  have ha : (0x1000 + 4 * k) % 4 = 0 := by omega
  have hw : 0x1000 + 4 * k < 0x1000 + s.bufSize := by omega
  refine ⟨fun hb hin => ?_, fun hb hin => ?_, fun hb hin => ?_⟩
  · obtain ⟨t, ht, hread, hkept⟩ :=
      step_hostRead_returns (w := s.buf.readWord (4 * k)) hin ha hw
        (by rw [targetOf_bufWord]; simp [State.readTarget, hb])
    exact ⟨t, _, ht, hkept, hread, toNat_wordOfBytes _ _ _ _⟩
  · have hwrite : step s = .next
        { s with inputs := rest, buf := s.buf.writeBytes (4 * k) (bytesOfWord v) } := by
      rw [step_hostWrite hin ha hw, targetOf_bufWord]
      simp [State.writeTarget, hb]
    exact ⟨_, hwrite, rfl, State.bufWritten_writeBytes hwf rfl⟩
  · refine ⟨_, step_hostWrite hin ha hw, ?_⟩
    rw [targetOf_bufWord]
    simp [State.writeTarget, hb]

/-- Settles O19: the three checks of a host access, in their order. -/
theorem accessesOutsideTheSpecStop : Obligations.AccessesOutsideTheSpecStop := by
  intro s off bytes v rest e he hin
  obtain ⟨effect, hstep⟩ := step_hostAccess he hin
  rw [hstep]
  refine ⟨hostAccess_width, ?_, ?_⟩
  · rintro rfl ha; exact hostAccess_unaligned ha
  · rintro rfl ha hw; exact hostAccess_beyond ha hw

end Sys2Proof.Machine

namespace Sys2Proof

/-! SUPPORT. The two sides of the opcode table of 30_encoding.md R108: what match and mask of a row ask
of a word, and how a word is put together from its fields. -/

/-! ### Match and mask -/

/-- The match column of opcode op: the opcode, and 0 below it (30_encoding.md R108). -/
def opPattern (op : Byte) : Word := op ++ 0#24

/-- The mask of the `len` bits from bit `lo` up. -/
def fieldMask (lo len : Nat) : Word := (BitVec.allOnes len).setWidth 32 <<< lo

/-- The mask column of a row: the opcode and each field (lo, len) that the row marks as 0
(30_encoding.md R106, R108). -/
def rowMask (fields : List (Nat × Nat)) : Word :=
  fields.foldr (fun f m => fieldMask f.1 f.2 ||| m) (fieldMask 24 8)

theorem opPattern_getLsbD (op : Byte) (k : Nat) :
    (opPattern op).getLsbD k = if k < 24 then false else op.getLsbD (k - 24) := by
  show BitVec.getLsbD (w := 8 + 24) (op ++ 0#24) k = _
  rw [BitVec.getLsbD_append, BitVec.getLsbD_zero]

@[simp] theorem opField_opPattern (op : Byte) : opField (opPattern op) = op := by
  apply BitVec.eq_of_getLsbD_eq
  intro j hj
  simp [opField, opPattern_getLsbD, hj]

theorem fieldMask_getLsbD {lo len : Nat} (h : lo + len ≤ 32) (k : Nat) :
    (fieldMask lo len).getLsbD k = decide (lo ≤ k ∧ k < lo + len) := by
  simp only [fieldMask, BitVec.getLsbD_shiftLeft, BitVec.getLsbD_setWidth, BitVec.getLsbD_allOnes]
  rw [Bool.eq_iff_iff]
  simp
  omega

theorem zeroBits_iff (w : Word) (lo len : Nat) :
    zeroBits w lo len = true ↔ ∀ k, lo ≤ k → k < lo + len → w.getLsbD k = false := by
  rw [zeroBits, beq_iff_eq]
  constructor
  · intro h k hlo hhi
    have hbit := congrArg (·.getLsbD (k - lo)) h
    simpa [show k - lo < len by omega, show lo + (k - lo) = k by omega] using hbit
  · intro h
    apply BitVec.eq_of_getLsbD_eq
    intro j hj
    simp [h (lo + j) (by omega) (by omega)]

/-- A field inside a field of zeros is zero. -/
theorem zeroBits_mono {w : Word} {lo len lo' len' : Nat} (h : zeroBits w lo len = true)
    (hlo : lo ≤ lo') (hhi : lo' + len' ≤ lo + len) : zeroBits w lo' len' = true :=
  (zeroBits_iff ..).2 fun k h1 h2 => (zeroBits_iff ..).1 h k (by omega) (by omega)

theorem and_opMask_eq_iff (w : Word) (op : Byte) :
    w &&& fieldMask 24 8 = opPattern op ↔ opField w = op := by
  have hbit (k : Nat) (hk : k < 32) :
      (w &&& fieldMask 24 8).getLsbD k = (opPattern (opField w)).getLsbD k := by
    rw [BitVec.getLsbD_and, fieldMask_getLsbD (by omega), opPattern_getLsbD]
    by_cases h : k < 24
    · simp [h]
    · simp [opField, h, show 24 ≤ k by omega, show k - 24 < 8 by omega, hk,
        show 24 + (k - 24) = k by omega]
  rw [BitVec.eq_of_getLsbD_eq hbit]
  exact ⟨fun h => by simpa using congrArg opField h, congrArg opPattern⟩

/-- A field of zeros is nothing to the mask. -/
theorem and_fieldMask_of_zeroBits {w : Word} {lo len : Nat} (hlen : lo + len ≤ 32)
    (h : zeroBits w lo len = true) : w &&& fieldMask lo len = 0#32 := by
  apply BitVec.eq_of_getLsbD_eq
  intro k hk
  rw [BitVec.getLsbD_and, fieldMask_getLsbD hlen, BitVec.getLsbD_zero]
  by_cases hin : lo ≤ k ∧ k < lo + len
  · simp [(zeroBits_iff ..).1 h k hin.1 hin.2]
  · simp [hin]

/-- A field below the opcode in the mask asks for zeros, since the match is 0 there. -/
theorem and_fieldMask_or_eq_iff {w m : Word} {op : Byte} {lo len : Nat} (hlen : lo + len ≤ 24) :
    w &&& (fieldMask lo len ||| m) = opPattern op ↔
      zeroBits w lo len = true ∧ w &&& m = opPattern op := by
  have hdrop (hz : zeroBits w lo len = true) : w &&& (fieldMask lo len ||| m) = w &&& m := by
    rw [BitVec.and_or_distrib_left, and_fieldMask_of_zeroBits (by omega) hz, BitVec.zero_or]
  constructor
  · intro heq
    have hz : zeroBits w lo len = true := (zeroBits_iff ..).2 fun k hlo hhi => by
      have hbit := congrArg (·.getLsbD k) heq
      simpa [fieldMask_getLsbD (show lo + len ≤ 32 by omega), opPattern_getLsbD, hlo, hhi,
        show k < 24 by omega] using hbit
    exact ⟨hz, (hdrop hz).symm.trans heq⟩
  · rintro ⟨hz, heq⟩
    exact (hdrop hz).trans heq

/-- word AND mask = match, field by field: the opcode, and zeros where the row marks them
(30_encoding.md R106, R108). -/
theorem and_rowMask_eq_iff {w : Word} {op : Byte} {fields : List (Nat × Nat)}
    (hlen : ∀ f ∈ fields, f.1 + f.2 ≤ 24) :
    w &&& rowMask fields = opPattern op ↔
      (∀ f ∈ fields, zeroBits w f.1 f.2 = true) ∧ opField w = op := by
  induction fields with
  | nil => simpa [rowMask] using and_opMask_eq_iff w op
  | cons f rest ih =>
    rw [List.forall_mem_cons] at hlen ⊢
    rw [rowMask, List.foldr_cons, and_fieldMask_or_eq_iff hlen.1, ← rowMask, ih hlen.2, and_assoc]

/-! ### Fields of the opcode table -/

theorem opField_mask : ∀ row ∈ opcodeTable, opField row.mask = 0xFF#8 := by decide

/-- A word that matches a row has the row's opcode. -/
theorem opField_of_match {w : Word} {row : OpcodeRow} (hrow : row ∈ opcodeTable)
    (h : w &&& row.mask = row.pattern) : opField row.pattern = opField w := by
  rw [← h, opField, BitVec.extractLsb'_and]
  exact (congrArg (opField w &&& ·) (opField_mask row hrow)).trans BitVec.and_allOnes

/-- Each opcode has one row. -/
theorem row_eq_of_opField {row row' : OpcodeRow} (hrow : row ∈ opcodeTable)
    (hrow' : row' ∈ opcodeTable) (h : opField row.pattern = opField row'.pattern) : row = row' :=
  List.inj_on_of_nodup_map (f := fun r : OpcodeRow => opField r.pattern)
    (show (opcodeTable.map _).Nodup by decide) hrow hrow' h

/-- Each mnemonic has one row. -/
theorem row_eq_of_mnemonic {row row' : OpcodeRow} (hrow : row ∈ opcodeTable)
    (hrow' : row' ∈ opcodeTable) (h : row.mnemonic = row'.mnemonic) : row = row' :=
  List.inj_on_of_nodup_map (f := OpcodeRow.mnemonic)
    (show (opcodeTable.map _).Nodup by decide) hrow hrow' h

/-- The opcodes of 30_encoding.md R108, row by row. -/
theorem opcodes_eq : opcodeTable.map (opField ·.pattern) =
    [0x00#8, 0x01#8, 0x02#8, 0x03#8, 0x04#8, 0x05#8, 0x06#8, 0x07#8, 0x08#8, 0x10#8, 0x11#8, 0x12#8,
      0x13#8, 0x14#8, 0x15#8, 0x20#8, 0x21#8, 0x22#8, 0x23#8, 0x30#8, 0x31#8, 0x32#8, 0x33#8, 0x40#8,
      0x41#8, 0x42#8, 0x50#8, 0x51#8, 0x52#8, 0x60#8, 0x61#8] := by decide

/-! ### A word from its fields -/

theorem rdField_of_zeroBits {w : Word} (h : zeroBits w 20 4 = true) : rdField w = 0 :=
  congrArg BitVec.toFin (eq_of_beq h)

theorem rs1Field_of_zeroBits {w : Word} (h : zeroBits w 16 4 = true) : rs1Field w = 0 :=
  congrArg BitVec.toFin (eq_of_beq h)

theorem rs2Field_of_zeroBits {w : Word} (h : zeroBits w 12 4 = true) : rs2Field w = 0 :=
  congrArg BitVec.toFin (eq_of_beq h)

theorem imm12Field_of_zeroBits {w : Word} (h : zeroBits w 0 12 = true) : imm12Field w = 0#12 :=
  eq_of_beq h

/-- The round byte alone when the bits above it are zero (30_encoding.md R107). -/
theorem imm12Field_of_round {w : Word} (h : zeroBits w 8 4 = true) :
    imm12Field w = (BitVec.ofNat 8 (w.extractLsb' 0 8).toNat).setWidth 12 := by
  rw [BitVec.ofNat_toNat, BitVec.setWidth_eq]
  apply BitVec.eq_of_getLsbD_eq
  intro k hk
  by_cases hk8 : k < 8
  · simp [imm12Field, hk, hk8]
  · simp [imm12Field, hk, hk8, (zeroBits_iff ..).1 h k (by omega) (by omega)]

/-- The extendable flag alone when the bits above it are zero (30_encoding.md R107). -/
theorem imm12Field_of_ext {w : Word} (h : zeroBits w 1 11 = true) :
    imm12Field w = extImm (w.getLsbD 0) := by
  apply BitVec.eq_of_getLsbD_eq
  intro k hk
  cases k with
  | zero => simp [imm12Field, extImm]
  | succ k => simp [imm12Field, extImm, hk, (zeroBits_iff ..).1 h (k + 1) (by omega) (by omega)]

section

variable {w : Word} {op : Byte} {rd rs1 rs2 : Reg}

/-- Formats R and I (30_encoding.md R102, R103). -/
theorem encodeI_eq_word {off : Nat} (hop : opField w = op) (hrd : rdField w = rd)
    (hrs1 : rs1Field w = rs1) (hrs2 : rs2Field w = rs2) (hoff : imm12Field w = BitVec.ofNat 12 off) :
    encodeI op rd rs1 rs2 off = w := by
  subst hop hrd hrs1 hrs2
  calc encodeI (opField w) (rdField w) (rs1Field w) (rs2Field w) off
    _ = w.extractLsb' 24 8 ++ w.extractLsb' 20 4 ++ w.extractLsb' 16 4 ++ w.extractLsb' 12 4 ++
          w.extractLsb' 0 12 := by rw [encodeI, ← hoff]; rfl
    _ = w := by
      simp only [BitVec.extractLsb'_append_extractLsb'_eq_extractLsb']
      exact BitVec.extractLsb'_eq_self

/-- Format U (30_encoding.md R104). -/
theorem encodeU_eq_word {imm : Nat} (hop : opField w = op) (hrd : rdField w = rd)
    (hz : zeroBits w 16 4 = true) (himm : imm16Field w = BitVec.ofNat 16 imm) :
    encodeU op rd imm = w := by
  subst hop hrd
  calc encodeU (opField w) (rdField w) imm
    _ = w.extractLsb' 24 8 ++ w.extractLsb' 20 4 ++ w.extractLsb' 16 4 ++ w.extractLsb' 0 16 := by
      rw [encodeU, ← himm, eq_of_beq hz]; rfl
    _ = w := by
      simp only [BitVec.extractLsb'_append_extractLsb'_eq_extractLsb']
      exact BitVec.extractLsb'_eq_self

/-- Format B (30_encoding.md R105). -/
theorem encodeB_eq_word {imm : BitVec 12} (hop : opField w = op) (hrd : rdField w = rd)
    (hz : zeroBits w 12 8 = true) (himm : imm12Field w = imm) : encodeB op rd imm = w := by
  subst hop hrd himm
  calc encodeB (opField w) (rdField w) (imm12Field w)
    _ = w.extractLsb' 24 8 ++ w.extractLsb' 20 4 ++ w.extractLsb' 12 8 ++ w.extractLsb' 0 12 := by
      rw [encodeB, eq_of_beq hz]; rfl
    _ = w := by
      simp only [BitVec.extractLsb'_append_extractLsb'_eq_extractLsb']
      exact BitVec.extractLsb'_eq_self

end

/-! ### Fields of an encoded word -/

section

variable (op : Byte) (rd rs1 rs2 : Reg) (off imm : Nat) (imm12 : BitVec 12)

@[simp] theorem opField_encodeI : opField (encodeI op rd rs1 rs2 off) = op :=
  extract_encodeI_op op rd rs1 rs2 off

@[simp] theorem rdField_encodeI : rdField (encodeI op rd rs1 rs2 off) = rd :=
  congrArg BitVec.toFin (extract_encodeI_rd op rd rs1 rs2 off)

@[simp] theorem rs1Field_encodeI : rs1Field (encodeI op rd rs1 rs2 off) = rs1 :=
  congrArg BitVec.toFin (extract_encodeI_rs1 op rd rs1 rs2 off)

@[simp] theorem rs2Field_encodeI : rs2Field (encodeI op rd rs1 rs2 off) = rs2 :=
  congrArg BitVec.toFin (extract_encodeI_rs2 op rd rs1 rs2 off)

@[simp] theorem imm12Field_encodeI : imm12Field (encodeI op rd rs1 rs2 off) = BitVec.ofNat 12 off :=
  extract_encodeI_imm op rd rs1 rs2 off

@[simp] theorem zeroBits_encodeI_rd : zeroBits (encodeI op 0 rs1 rs2 off) 20 4 = true :=
  beq_iff_eq.2 (extract_encodeI_rd op 0 rs1 rs2 off)

@[simp] theorem zeroBits_encodeI_rs2 : zeroBits (encodeI op rd rs1 0 off) 12 4 = true :=
  beq_iff_eq.2 (extract_encodeI_rs2 op rd rs1 0 off)

@[simp] theorem zeroBits_encodeI_imm : zeroBits (encodeI op rd rs1 rs2 0) 0 12 = true :=
  beq_iff_eq.2 (extract_encodeI_imm op rd rs1 rs2 0)

@[simp] theorem opField_encodeU : opField (encodeU op rd imm) = op := extract_encodeU_op op rd imm

@[simp] theorem rdField_encodeU : rdField (encodeU op rd imm) = rd :=
  congrArg BitVec.toFin (extract_encodeU_rd op rd imm)

@[simp] theorem imm16Field_encodeU : imm16Field (encodeU op rd imm) = BitVec.ofNat 16 imm :=
  extract_encodeU_imm op rd imm

@[simp] theorem zeroBits_encodeU : zeroBits (encodeU op rd imm) 16 4 = true :=
  beq_iff_eq.2 (extract_encodeU_zero op rd imm)

@[simp] theorem opField_encodeB : opField (encodeB op rd imm12) = op := extract_encodeB_op op rd imm12

@[simp] theorem rdField_encodeB : rdField (encodeB op rd imm12) = rd :=
  congrArg BitVec.toFin (extract_encodeB_rd op rd imm12)

@[simp] theorem zeroBits_encodeB_rd : zeroBits (encodeB op 0 imm12) 20 4 = true :=
  beq_iff_eq.2 (extract_encodeB_rd op 0 imm12)

@[simp] theorem zeroBits_encodeB : zeroBits (encodeB op rd imm12) 12 8 = true :=
  beq_iff_eq.2 (extract_encodeB_zero op rd imm12)

@[simp] theorem zeroBits_encodeB_imm : zeroBits (encodeB op rd 0#12) 0 12 = true :=
  beq_iff_eq.2 (extract_encodeB_imm op rd 0 0 12 (by omega))

@[simp] theorem zeroBits_encodeB_ext (ext : Bool) :
    zeroBits (encodeB op rd (extImm ext)) 1 11 = true := by
  rw [zeroBits, extract_encodeB_imm op rd _ 1 11 (by omega)]
  cases ext <;> rfl

@[simp] theorem getElem_zero_encodeB_ext (ext : Bool) : (encodeB op rd (extImm ext))[0] = ext := by
  rw [BitVec.getElem_eq_testBit_toNat, ← BitVec.getLsbD, encodeB_getLsbD, if_pos (by omega)]
  cases ext <;> rfl

@[simp] theorem zeroBits_encodeB_round (round : Byte) :
    zeroBits (encodeB op rd (round.setWidth 12)) 8 4 = true := by
  refine (zeroBits_iff ..).2 fun k hlo hhi => ?_
  rw [encodeB_getLsbD, if_pos (by omega), BitVec.getLsbD_setWidth, BitVec.getLsbD_of_ge _ _ hlo,
    Bool.and_false]

@[simp] theorem extract_encodeB_round (round : Byte) :
    (encodeB op rd (round.setWidth 12)).extractLsb' 0 8 = round := by
  rw [extract_encodeB_imm op rd _ 0 8 (by omega)]
  apply BitVec.eq_of_getLsbD_eq
  intro k hk
  simp [hk, show k < 12 by omega]

end

end Sys2Proof

namespace Sys2Proof

/-! CLAIMS. The decoder row by row, and the statements of 30_encoding.md. -/

/-! ### The decoder, row by row -/

/-- The answers a decoder of the opcode table may give on a word (30_encoding.md R106, R108, R109). -/
inductive TableAnswer (w : Word) : Except DecodeError Instr → Prop where
  /-- The opcode is a row's: the answer is the row's command, with w its own word, when w matches the
  row, and else the rejection of a zero field. -/
  | ofRow (row : OpcodeRow) (i : Instr) (zero : Bool) (mem : row ∈ opcodeTable)
      (opcode : opField row.pattern = opField w) (mnemonic : i.mnemonic = row.mnemonic)
      (zero_iff : zero = true ↔ w &&& row.mask = row.pattern) (wf : WellFormed i)
      (encode_eq : zero = true → encode i = w) : TableAnswer w (whenZero w zero i)
  /-- The opcode is no row's. -/
  | unassigned (noRow : ∀ row ∈ opcodeTable, opField row.pattern ≠ opField w) :
      TableAnswer w (.error (.unassignedOpcode (opField w)))

/-- A row given by its opcode and the fields it marks as 0. The last three premises are closed facts of
the table and of the list of fields. -/
theorem TableAnswer.ofFields {w : Word} {op : Byte} {i : Instr} {zero : Bool}
    (fields : List (Nat × Nat)) (hop : opField w = op) (hwf : WellFormed i)
    (henc : zero = true → encode i = w)
    (hmem : (⟨i.mnemonic, opPattern op, rowMask fields⟩ : OpcodeRow) ∈ opcodeTable := by
      simp only [Instr.mnemonic]; decide)
    (hzero : zero = true ↔ ∀ f ∈ fields, zeroBits w f.1 f.2 = true := by simp [and_assoc])
    (hlen : ∀ f ∈ fields, f.1 + f.2 ≤ 24 := by decide) : TableAnswer w (whenZero w zero i) :=
  .ofRow _ i zero hmem ((opField_opPattern op).trans hop.symm) rfl
    (by rw [and_rowMask_eq_iff hlen, hzero, and_iff_left hop]) hwf henc

/-- The decoder answers from the table: its one case split over the opcodes, which stand together where
their rows mark the same fields. -/
theorem decode_tableAnswer (w : Word) : TableAnswer w (decode w) := by
  unfold decode
  split
  -- NOP
  case h_1 _ hop =>
    refine .ofFields [(0, 24)] hop rfl fun hz => ?_
    have hsub {lo len : Nat} (h : lo + len ≤ 24) : zeroBits w lo len = true :=
      zeroBits_mono hz (Nat.zero_le lo) (by omega)
    exact encodeI_eq_word hop (rdField_of_zeroBits (hsub (by omega)))
      (rs1Field_of_zeroBits (hsub (by omega))) (rs2Field_of_zeroBits (hsub (by omega)))
      (imm12Field_of_zeroBits (hsub (by omega)))
  -- LI, LIH
  case h_2 _ hop | h_3 _ hop =>
    exact .ofFields [(16, 4)] hop (decide_eq_true (imm16Field w).isLt)
      fun hz => encodeU_eq_word hop rfl hz (by simp)
  -- MOV, GF8.INV, GF8.EXP, GF8.LOG, GF10.INV
  case h_4 _ hop | h_12 _ hop | h_14 _ hop | h_15 _ hop | h_18 _ hop =>
    refine .ofFields [(12, 4), (0, 12)] hop rfl fun hz => ?_
    obtain ⟨hrs2, himm⟩ := Bool.and_eq_true_iff.1 hz
    exact encodeI_eq_word hop rfl rfl (rs2Field_of_zeroBits hrs2) (imm12Field_of_zeroBits himm)
  -- LDB, LDH
  case h_5 _ hop | h_7 _ hop =>
    exact .ofFields [(12, 4)] hop (decide_eq_true (imm12Field w).isLt)
      fun hz => encodeI_eq_word hop rfl rfl (rs2Field_of_zeroBits hz) (by simp)
  -- STB, STH
  case h_6 _ hop | h_8 _ hop =>
    exact .ofFields [(20, 4)] hop (decide_eq_true (imm12Field w).isLt)
      fun hz => encodeI_eq_word hop (rdField_of_zeroBits hz) rfl rfl (by simp)
  -- WIPE, SSS.INTERP, SSS.SPLIT, SSS.RECON, FST.ENC, FST.DEC, CODEC.DEC
  case h_9 _ hop | h_20 _ hop | h_22 _ hop | h_23 _ hop | h_25 _ hop | h_26 _ hop | h_31 _ hop =>
    refine .ofFields [(20, 4), (12, 8), (0, 12)] hop rfl fun hz => ?_
    simp only [Bool.and_eq_true] at hz
    obtain ⟨⟨hrd, hgap⟩, himm⟩ := hz
    exact encodeB_eq_word hop (rdField_of_zeroBits hrd) hgap (imm12Field_of_zeroBits himm)
  -- GF8.ADD, GF8.MUL, GF8.POW, GF10.ADD, GF10.MUL, GF10.POW
  case h_10 _ hop | h_11 _ hop | h_13 _ hop | h_16 _ hop | h_17 _ hop | h_19 _ hop =>
    exact .ofFields [(0, 12)] hop rfl
      fun hz => encodeI_eq_word hop rfl rfl rfl (imm12Field_of_zeroBits hz)
  -- SSS.DIGEST, RS.POLYMOD, CODEC.ENC
  case h_21 _ hop | h_27 _ hop | h_30 _ hop =>
    refine .ofFields [(12, 8), (0, 12)] hop rfl fun hz => ?_
    obtain ⟨hgap, himm⟩ := Bool.and_eq_true_iff.1 hz
    exact encodeB_eq_word hop rfl hgap (imm12Field_of_zeroBits himm)
  -- FST.ROUND
  case h_24 _ hop =>
    refine .ofFields [(20, 4), (12, 8), (8, 4)] hop
      (decide_eq_true (w.extractLsb' 0 8).isLt) fun hz => ?_
    simp only [Bool.and_eq_true] at hz
    obtain ⟨⟨hrd, hgap⟩, himm⟩ := hz
    exact encodeB_eq_word hop (rdField_of_zeroBits hrd) hgap (imm12Field_of_round himm)
  -- RS.CREATE, RS.VERIFY
  case h_28 _ hop | h_29 _ hop =>
    refine .ofFields [(12, 8), (1, 11)] hop rfl fun hz => ?_
    obtain ⟨hgap, himm⟩ := Bool.and_eq_true_iff.1 hz
    exact encodeB_eq_word hop rfl hgap (imm12Field_of_ext himm)
  -- no row: the decoder's arms are the table's opcodes
  case h_32 =>
    refine .unassigned fun row hrow heq => ?_
    have hop : opField w ∈ opcodeTable.map (opField ·.pattern) := heq ▸ List.mem_map_of_mem hrow
    simp_all [opcodes_eq]

/-- A word that decodes matches the row of its command, and is the command's own word. -/
theorem decode_ok {w : Word} {i : Instr} (h : decode w = .ok i) :
    WellFormed i ∧ encode i = w ∧
      ∃ row ∈ opcodeTable, i.mnemonic = row.mnemonic ∧ w &&& row.mask = row.pattern := by
  have answer := decode_tableAnswer w
  generalize hd : decode w = d at answer
  rw [hd] at h
  cases answer with
  | ofRow row j zero mem opcode mnemonic zero_iff wf encode_eq =>
    obtain ⟨hz, rfl⟩ := (whenZero_ok_iff ..).1 h
    exact ⟨wf, encode_eq hz, row, mem, mnemonic, zero_iff.1 hz⟩
  | unassigned => cases h

/-- A word that matches a row decodes to the row's command. -/
theorem decode_of_match {w : Word} {row : OpcodeRow} (hrow : row ∈ opcodeTable)
    (hmatch : w &&& row.mask = row.pattern) : ∃ i, decode w = .ok i ∧ i.mnemonic = row.mnemonic := by
  have hop := opField_of_match hrow hmatch
  have answer := decode_tableAnswer w
  generalize decode w = d at answer ⊢
  cases answer with
  | ofRow row' i zero mem opcode mnemonic zero_iff =>
    obtain rfl := row_eq_of_opField mem hrow (opcode.trans hop.symm)
    exact ⟨i, (whenZero_ok_iff ..).2 ⟨zero_iff.2 hmatch, rfl⟩, mnemonic⟩
  | unassigned noRow => exact absurd hop (noRow row hrow)

/-! ### The statements of 30_encoding.md -/

/-- Settles O1. -/
theorem listedWordsDecodeAsListed : Obligations.ListedWordsDecodeAsListed := by
  unfold Obligations.ListedWordsDecodeAsListed
  decide

/-- Settles O2: format by format, the fields read back what was put there. -/
theorem decodeOfEncodeIsTheCommand : Obligations.DecodeOfEncodeIsTheCommand := by
  intro i hwf
  cases i
  -- formats R and I with a zero immediate
  case nop => rfl
  case mov | gf8Add | gf8Mul | gf8Inv | gf8Pow | gf8Exp | gf8Log | gf10Add | gf10Mul | gf10Inv |
      gf10Pow =>
    simp [encode, encodeR_eq_encodeI, decode, whenZero]
  -- format I
  case ldb rd rs1 off | stb rs1 rs2 off | ldh rd rs1 off | sth rs1 rs2 off =>
    have hoff : off % 4096 = off := Nat.mod_eq_of_lt (of_decide_eq_true hwf)
    simp [encode, decode, whenZero, hoff]
  -- format U
  case li rd imm | lih rd imm =>
    have himm : imm % 65536 = imm := Nat.mod_eq_of_lt (of_decide_eq_true hwf)
    simp [encode, decode, whenZero, himm]
  -- format B
  case wipe | sssInterp | sssDigest | sssSplit | sssRecon | fstEnc | fstDec | rsPolymod | codecEnc |
      codecDec | rsCreate | rsVerify =>
    simp [encode, decode, whenZero]
  case fstRound round =>
    have hround : round % 256 = round := Nat.mod_eq_of_lt (of_decide_eq_true hwf)
    simp [encode, decode, whenZero, hround]

/-- Settles O3. -/
theorem encodeOfDecodeIsTheWord : Obligations.EncodeOfDecodeIsTheWord := by
  intro w i h
  obtain ⟨hwf, hencode, -⟩ := decode_ok h
  exact ⟨hwf, hencode⟩

/-- Settles O4: a match decides the row by its opcode, a decoded command by its mnemonic. -/
theorem decodeFollowsMatchAndMask : Obligations.DecodeFollowsMatchAndMask := by
  intro w row hrow
  refine ⟨decode_of_match hrow, fun ⟨i, h, hname⟩ => ?_⟩
  obtain ⟨-, -, row', hrow', hname', hmatch⟩ := decode_ok h
  obtain rfl := row_eq_of_mnemonic hrow' hrow (hname'.symm.trans hname)
  exact hmatch

end Sys2Proof

namespace Sys2Proof.Machine

/-- The engine's move is the step when it is the first event to come or none is to come. -/
theorem step_engineMove {s : State}
    (h : s.inputs = [] ∨ ∃ rest, s.inputs = .engineMoves :: rest) :
    step s = engineMove { s with inputs := s.inputs.tail } := by
  rcases h with h | ⟨rest, h⟩
  · have hs : { s with inputs := s.inputs.tail } = s := by rw [h, List.tail_nil, ← h]
    rw [step_idle h, hs]
  · rw [step_event h, h]
    rfl

/-- Settles O5: a word that decoded would match a row. -/
theorem wordOfNoRowIsIllegal : Obligations.WordOfNoRowIsIllegal := by
  intro s p hin hp hno
  have hstep : step s = runWord p.word { s with inputs := s.inputs.tail } :=
    (step_engineMove hin).trans (engineMove_pending hp)
  rcases runWord_cases p.word { s with inputs := s.inputs.tail } with ⟨i, hi, -⟩ | ⟨e, -, hrun⟩
  · obtain ⟨-, -, row, hrow, -, hmatch⟩ := decode_ok hi
    exact absurd hmatch (hno row hrow)
  · exact ⟨_, hstep.trans hrun, State.completedErr_takeError _ _ _⟩

end Sys2Proof.Machine

namespace Sys2Proof.Machine

/-! SUPPORT. The arithmetic that GF(2^8) and GF(2^10) share, for every width w and modulus m: the
bit-by-bit product is the reduced carry-less product (40_gf256.md R130, R132; 41_gf1024.md R160,
R161), it is commutative, associative and bilinear (40_gf256.md R139), and square-and-multiply
computes its powers (40_gf256.md R136). -/

/-! ### Reduction modulo a polynomial -/

/-- Reduction is linear over XOR: the bit that one step cancels in a sum is the sum of the bits. -/
theorem polyMod_xor (m d : Nat) : ∀ k p q : Nat,
    polyMod m d (p ^^^ q) k = polyMod m d p k ^^^ polyMod m d q k
  | 0, _, _ => rfl
  | k + 1, p, q => by
    have hstep : (if (p ^^^ q).testBit (d + k) then p ^^^ q ^^^ m <<< k else p ^^^ q) =
        (if p.testBit (d + k) then p ^^^ m <<< k else p) ^^^
          (if q.testBit (d + k) then q ^^^ m <<< k else q) := by
      rw [Nat.testBit_xor]
      cases p.testBit (d + k) <;> cases q.testBit (d + k) <;>
        simp [Nat.xor_left_comm, Nat.xor_comm]
    rw [polyMod, hstep, polyMod_xor m d k, ← polyMod, ← polyMod]

theorem polyMod_zero (m d k : Nat) : polyMod m d 0 k = 0 := by
  simpa using polyMod_xor m d k 0 0

/-- A polynomial of degree below d is its own remainder. -/
theorem polyMod_of_lt (m : Nat) {d p : Nat} (hp : p < 2 ^ d) : ∀ k, polyMod m d p k = p
  | 0 => rfl
  | k + 1 => by
    have hbit : p.testBit (d + k) = false :=
      Nat.testBit_lt_two_pow (hp.trans_le (Nat.pow_le_pow_right (by decide) (by omega)))
    rw [polyMod, hbit]
    exact polyMod_of_lt m hp k

/-- A product by x may be reduced before it is formed. -/
theorem polyMod_shiftLeft_one (m d : Nat) : ∀ k p : Nat,
    polyMod m d (p <<< 1) (k + 1) = polyMod m d (polyMod m d p k <<< 1) 1
  | 0, _ => rfl
  | k + 1, p => by
    have hbit : (p <<< 1).testBit (d + (k + 1)) = p.testBit (d + k) := by
      simp [Nat.testBit_shiftLeft, ← Nat.add_assoc]
    have hstep : (if p.testBit (d + k) then p <<< 1 ^^^ m <<< (k + 1) else p <<< 1) =
        (if p.testBit (d + k) then p ^^^ m <<< k else p) <<< 1 := by
      split
      · rw [Nat.shiftLeft_xor_distrib, Nat.shiftLeft_add]
      · rfl
    rw [polyMod, hbit, hstep, polyMod_shiftLeft_one m d k, ← polyMod]

/-! ### Multiplication by x -/

/-- `dbl` multiplies a residue by x modulo m, a polynomial of degree w. -/
def IsDouble {w : Nat} (m : Nat) (dbl : BitVec w → BitVec w) : Prop :=
  ∀ a, (dbl a).toNat = polyMod m w (a.toNat <<< 1) 1

/-- A polynomial of degree w at most without its bit w has degree below w. -/
theorem lt_two_pow_of_testBit_eq_false {w x : Nat} (hx : x < 2 ^ (w + 1))
    (hbit : x.testBit w = false) : x < 2 ^ w := by
  refine Nat.lt_pow_two_of_testBit x fun i hi => ?_
  rcases hi.eq_or_lt with rfl | hlt
  · exact hbit
  · exact Nat.testBit_lt_two_pow (hx.trans_le (Nat.pow_le_pow_right (by decide) hlt))

/-- The hardware's form: one shift into w + 1 bits, and a conditional XOR of the modulus
(40_gf256.md R132, 41_gf1024.md R161). -/
theorem isDouble_shift {w : Nat} (m : BitVec (w + 1)) (hm : m.getLsbD w = true) :
    IsDouble m.toNat fun a : BitVec w =>
      (if (a.setWidth (w + 1) <<< 1).getLsbD w then a.setWidth (w + 1) <<< 1 ^^^ m
        else a.setWidth (w + 1) <<< 1).setWidth w := by
  intro a
  have ha := a.isLt
  have hlt : a.toNat <<< 1 < 2 ^ (w + 1) := by rw [Nat.shiftLeft_eq]; omega
  have hshift : (a.setWidth (w + 1) <<< 1).toNat = a.toNat <<< 1 := by
    rw [BitVec.toNat_shiftLeft, BitVec.toNat_setWidth_of_le (by omega), Nat.mod_eq_of_lt hlt]
  simp only [polyMod, Nat.add_zero, Nat.shiftLeft_zero, BitVec.getLsbD, hshift]
  split
  next hbit =>
    have hcancel : (a.toNat <<< 1 ^^^ m.toNat).testBit w = false := by
      rw [Nat.testBit_xor, hbit, ← BitVec.getLsbD, hm]; rfl
    rw [BitVec.toNat_setWidth, BitVec.toNat_xor, hshift, Nat.mod_eq_of_lt]
    exact lt_two_pow_of_testBit_eq_false (Nat.xor_lt_two_pow hlt m.isLt) hcancel
  next hbit =>
    rw [BitVec.toNat_setWidth, hshift, Nat.mod_eq_of_lt]
    exact lt_two_pow_of_testBit_eq_false hlt (by simpa using hbit)

theorem gf8Double_isDouble : IsDouble 0x11B gf8Double := isDouble_shift 0x11B#9 rfl

theorem gf10Double_isDouble : IsDouble 0x409 gf10Double := isDouble_shift 0x409#11 rfl

section Product

variable {w m : Nat} {dbl : BitVec w → BitVec w}

theorem IsDouble.xor (h : IsDouble m dbl) (a b : BitVec w) : dbl (a ^^^ b) = dbl a ^^^ dbl b := by
  apply BitVec.eq_of_toNat_eq
  rw [h, BitVec.toNat_xor, BitVec.toNat_xor, h, h, Nat.shiftLeft_xor_distrib, polyMod_xor]

theorem IsDouble.zero (h : IsDouble m dbl) : dbl 0 = 0 := by
  simpa using h.xor 0 0

/-- n doublings are one reduction of a * x^n, with k steps or more. -/
theorem IsDouble.iterate (h : IsDouble m dbl) (a : BitVec w) : ∀ {n k : Nat}, n ≤ k →
    (dbl^[n] a).toNat = polyMod m w (a.toNat <<< n) k
  | 0, k, _ => (polyMod_of_lt m a.isLt k).symm
  | n + 1, k + 1, hle => by
    rw [Function.iterate_succ_apply', h, h.iterate a (Nat.le_of_succ_le_succ hle),
      ← polyMod_shiftLeft_one, ← Nat.shiftLeft_add]

theorem IsDouble.iterate_xor (h : IsDouble m dbl) (n : Nat) (a b : BitVec w) :
    dbl^[n] (a ^^^ b) = dbl^[n] a ^^^ dbl^[n] b := by
  induction n with
  | zero => rfl
  | succ n ih => simp only [Function.iterate_succ_apply', ih, h.xor]

/-! ### The product as a sum of doublings -/

/-- The XOR of x^i * a over the set bits i < n of b: `clmulBits` with the doublings in place of the
shifts. -/
def doublingSum (dbl : BitVec w → BitVec w) (a b : BitVec w) : Nat → BitVec w
  | 0 => 0
  | n + 1 => doublingSum dbl a b n ^^^ (if b.getLsbD n then dbl^[n] a else 0)

/-- The first doubling taken off the sum, as the bit-by-bit loop takes it. -/
theorem doublingSum_succ_left (dbl : BitVec w → BitVec w) (a b : BitVec w) : ∀ n,
    doublingSum dbl a b (n + 1) =
      (if b.getLsbD 0 then a else 0) ^^^ doublingSum dbl (dbl a) (b >>> 1) n
  | 0 => by simp [doublingSum]
  | n + 1 => by
    rw [doublingSum, doublingSum_succ_left dbl a b n, doublingSum, BitVec.xor_assoc,
      BitVec.getLsbD_ushiftRight, Nat.add_comm 1 n, Function.iterate_succ_apply]

/-- One iteration of the loop (40_gf256.md R132). -/
theorem xor_doublingSum_succ (dbl : BitVec w → BitVec w) (a b r : BitVec w) (n : Nat) :
    (if b.getLsbD 0 then r ^^^ a else r) ^^^ doublingSum dbl (dbl a) (b >>> 1) n =
      r ^^^ doublingSum dbl a b (n + 1) := by
  rw [doublingSum_succ_left]
  split <;> simp [BitVec.xor_assoc]

/-- The sum of doublings is the carry-less product, reduced (40_gf256.md R130,
41_gf1024.md R160). -/
theorem IsDouble.doublingSum_toNat (h : IsDouble m dbl) (a b : BitVec w) {k : Nat} : ∀ {n : Nat},
    n ≤ k + 1 → (doublingSum dbl a b n).toNat = polyMod m w (clmulBits a.toNat b.toNat n) k
  | 0, _ => (polyMod_zero m w k).symm
  | n + 1, hle => by
    rw [doublingSum, clmulBits, BitVec.toNat_xor, polyMod_xor,
      h.doublingSum_toNat a b (Nat.le_of_succ_le hle), BitVec.getLsbD]
    congr 1
    split
    · exact h.iterate a (Nat.le_of_succ_le_succ hle)
    · exact (polyMod_zero m w k).symm

/-! ### The laws of the product -/

/-- Multiplication by b commutes with multiplication by x. -/
theorem IsDouble.doublingSum_double (h : IsDouble m dbl) (a b : BitVec w) : ∀ n,
    doublingSum dbl (dbl a) b n = dbl (doublingSum dbl a b n)
  | 0 => h.zero.symm
  | n + 1 => by
    rw [doublingSum, doublingSum, h.xor, h.doublingSum_double a b n,
      ← Function.iterate_succ_apply, Function.iterate_succ_apply']
    split
    · rfl
    · rw [h.zero]

theorem IsDouble.doublingSum_xor_left (h : IsDouble m dbl) (a b c : BitVec w) : ∀ n,
    doublingSum dbl (a ^^^ b) c n = doublingSum dbl a c n ^^^ doublingSum dbl b c n
  | 0 => by simp [doublingSum]
  | n + 1 => by
    simp only [doublingSum, h.doublingSum_xor_left a b c n, h.iterate_xor]
    split
    · ac_rfl
    · simp

theorem doublingSum_xor_right (dbl : BitVec w → BitVec w) (a b c : BitVec w) : ∀ n,
    doublingSum dbl a (b ^^^ c) n = doublingSum dbl a b n ^^^ doublingSum dbl a c n
  | 0 => by simp [doublingSum]
  | n + 1 => by
    have hbit : (if (b ^^^ c).getLsbD n then dbl^[n] a else 0) =
        (if b.getLsbD n then dbl^[n] a else 0) ^^^ (if c.getLsbD n then dbl^[n] a else 0) := by
      rw [BitVec.getLsbD_xor]
      cases b.getLsbD n <;> cases c.getLsbD n <;> simp
    simp only [doublingSum, doublingSum_xor_right dbl a b c n, hbit]
    ac_rfl

theorem IsDouble.doublingSum_zero_left (h : IsDouble m dbl) (b : BitVec w) (n : Nat) :
    doublingSum dbl 0 b n = 0 := by
  simpa using h.doublingSum_xor_left 0 0 b n

theorem IsDouble.doublingSum_iterate (h : IsDouble m dbl) (a b : BitVec w) (n k : Nat) :
    doublingSum dbl (dbl^[k] a) b n = dbl^[k] (doublingSum dbl a b n) := by
  induction k with
  | zero => rfl
  | succ k ih => simp only [Function.iterate_succ_apply', h.doublingSum_double, ih]

/-- Two factors may be multiplied in either order: both are sums of powers of one linear map. -/
theorem IsDouble.doublingSum_right_comm (h : IsDouble m dbl) (a b c : BitVec w) (n : Nat) : ∀ k,
    doublingSum dbl (doublingSum dbl a b n) c k = doublingSum dbl (doublingSum dbl a c k) b n
  | 0 => (h.doublingSum_zero_left b n).symm
  | k + 1 => by
    rw [doublingSum, doublingSum, h.doublingSum_right_comm a b c n k, h.doublingSum_xor_left]
    split
    · rw [h.doublingSum_iterate]
    · rw [h.doublingSum_zero_left]

/-- 1 * b is b, as far as its bits are taken. -/
theorem clmulBits_one_left (b : Nat) : ∀ n, clmulBits 1 b n = b % 2 ^ n
  | 0 => (Nat.mod_one b).symm
  | n + 1 => by
    rw [clmulBits, clmulBits_one_left b n, Nat.one_shiftLeft]
    refine Nat.eq_of_testBit_eq fun i => ?_
    simp only [Nat.testBit_xor, Nat.testBit_mod_two_pow]
    rcases lt_trichotomy i n with hi | rfl | hi
    · split <;> simp [hi, hi.ne', hi.trans n.lt_succ_self]
    · split <;> simp_all
    · split <;> simp [hi.ne, hi.not_gt, Nat.not_lt.2 (Nat.succ_le_of_lt hi)]

theorem IsDouble.doublingSum_one_left (h : IsDouble m dbl) (hw : 0 < w) (b : BitVec w) :
    doublingSum dbl 1 b w = b := by
  apply BitVec.eq_of_toNat_eq
  have hone : (1 : BitVec w).toNat = 1 := by simpa using hw
  rw [h.doublingSum_toNat 1 b (Nat.le_succ w), hone, clmulBits_one_left, Nat.mod_eq_of_lt b.isLt]
  exact polyMod_of_lt m b.isLt w

end Product

/-! ### The two fields' products -/

theorem gf8MulLoop_eq (n : Nat) (a b r : Byte) :
    gf8MulLoop n a b r = r ^^^ doublingSum gf8Double a b n := by
  induction n generalizing a b r with
  | zero => exact (BitVec.xor_zero).symm
  | succ n ih => rw [gf8MulLoop, ih, xor_doublingSum_succ]

theorem gf10MulLoop_eq (n : Nat) (a b r : Word10) :
    gf10MulLoop n a b r = r ^^^ doublingSum gf10Double a b n := by
  induction n generalizing a b r with
  | zero => exact (BitVec.xor_zero).symm
  | succ n ih => rw [gf10MulLoop, ih, xor_doublingSum_succ]

theorem gf8Mul_eq_doublingSum (a b : Byte) : gf8Mul a b = doublingSum gf8Double a b 8 := by
  rw [gf8Mul, gf8MulLoop_eq]
  exact BitVec.zero_xor

theorem gf10Mul_eq_doublingSum (a b : Word10) : gf10Mul a b = doublingSum gf10Double a b 10 := by
  rw [gf10Mul, gf10MulLoop_eq]
  exact BitVec.zero_xor

/-- GF(2^8)'s product by its definition is the bit-by-bit one (40_gf256.md R130, R132). -/
theorem gf8MulPoly_eq (a b : Byte) : gf8MulPoly a b = gf8Mul a b := by
  rw [gf8MulPoly, gf8Mul_eq_doublingSum, ← gf8Double_isDouble.doublingSum_toNat a b le_rfl,
    BitVec.ofNat_toNat, BitVec.setWidth_eq]

/-- GF(2^10)'s product by its definition is the bit-by-bit one (41_gf1024.md R160, R161). -/
theorem gf10MulPoly_eq (a b : Word10) : gf10MulPoly a b = gf10Mul a b := by
  rw [gf10MulPoly, gf10Mul_eq_doublingSum, ← gf10Double_isDouble.doublingSum_toNat a b le_rfl,
    BitVec.ofNat_toNat, BitVec.setWidth_eq]

/-! ### The laws of a product -/

section Laws

variable {w : Nat}

/-- The product makes a commutative ring of the words with XOR as addition (40_gf256.md R139). -/
structure IsRingProduct (mul : BitVec w → BitVec w → BitVec w) : Prop where
  assoc : ∀ a b c, mul (mul a b) c = mul a (mul b c)
  comm : ∀ a b, mul a b = mul b a
  distrib : ∀ a b c, mul a (b ^^^ c) = mul a b ^^^ mul a c
  one : ∀ a, mul a 1 = a

theorem IsDouble.isRingProduct {m : Nat} {dbl : BitVec w → BitVec w} (h : IsDouble m dbl)
    (hw : 0 < w) : IsRingProduct fun a b => doublingSum dbl a b w := by
  have hcomm (a b : BitVec w) : doublingSum dbl a b w = doublingSum dbl b a w := by
    calc doublingSum dbl a b w = doublingSum dbl (doublingSum dbl 1 a w) b w := by
          rw [h.doublingSum_one_left hw]
      _ = doublingSum dbl (doublingSum dbl 1 b w) a w := h.doublingSum_right_comm _ _ _ _ _
      _ = doublingSum dbl b a w := by rw [h.doublingSum_one_left hw]
  exact {
    comm := hcomm
    distrib := fun a b c => doublingSum_xor_right dbl a b c w
    one := fun a => by rw [hcomm, h.doublingSum_one_left hw]
    assoc := fun a b c => by
      calc doublingSum dbl (doublingSum dbl a b w) c w
          = doublingSum dbl (doublingSum dbl b a w) c w := by rw [hcomm a b]
        _ = doublingSum dbl (doublingSum dbl b c w) a w := h.doublingSum_right_comm _ _ _ _ _
        _ = doublingSum dbl a (doublingSum dbl b c w) w := hcomm _ _ }

variable {mul : BitVec w → BitVec w → BitVec w}

theorem IsRingProduct.zero (h : IsRingProduct mul) (a : BitVec w) : mul a 0 = 0 := by
  simpa using h.distrib a 0 0

theorem IsRingProduct.one_left (h : IsRingProduct mul) (a : BitVec w) : mul 1 a = a := by
  rw [h.comm, h.one]

/-- An inverse is unique. -/
theorem IsRingProduct.inverse_unique (h : IsRingProduct mul) {a b c : BitVec w}
    (hb : mul a b = 1) (hc : mul a c = 1) : c = b := by
  calc c = mul (mul a b) c := by rw [hb, h.one_left]
    _ = mul (mul a c) b := by rw [h.assoc, h.comm b c, ← h.assoc]
    _ = b := by rw [hc, h.one_left]

/-- a multiplied by itself n times, 1 for n = 0. -/
def powTimes (mul : BitVec w → BitVec w → BitVec w) (a : BitVec w) : Nat → BitVec w
  | 0 => 1
  | n + 1 => mul (powTimes mul a n) a

theorem IsRingProduct.powTimes_add (h : IsRingProduct mul) (a : BitVec w) (k n : Nat) :
    powTimes mul a (k + n) = mul (powTimes mul a k) (powTimes mul a n) := by
  induction n with
  | zero => exact (h.one _).symm
  | succ n ih => rw [← Nat.add_assoc, powTimes, powTimes, ih, h.assoc]

theorem IsRingProduct.powTimes_mul (h : IsRingProduct mul) (a : BitVec w) (k n : Nat) :
    powTimes mul a (k * n) = powTimes mul (powTimes mul a k) n := by
  induction n with
  | zero => rfl
  | succ n ih => rw [Nat.mul_succ, h.powTimes_add, ih, powTimes]

theorem IsRingProduct.powTimes_one (h : IsRingProduct mul) (n : Nat) :
    powTimes mul 1 n = 1 := by
  induction n with
  | zero => rfl
  | succ n ih => rw [powTimes, ih, h.one]

/-- One round of square-and-multiply takes in one more bit of the exponent (40_gf256.md R136). -/
theorem IsRingProduct.powTimes_shiftRight (h : IsRingProduct mul) {a r : BitVec w} {e n : Nat}
    (hr : r = powTimes mul a (e >>> (n + 1))) :
    (if e.testBit n then mul (mul r r) a else mul r r) = powTimes mul a (e >>> n) := by
  have hhalf : e >>> (n + 1) = e >>> n / 2 := Nat.shiftRight_succ e n
  have hbit : e.testBit n = decide (e >>> n % 2 = 1) := by
    rw [Nat.testBit_eq_decide_div_mod_eq, Nat.shiftRight_eq_div_pow]
  simp only [hr, ← h.powTimes_add, hbit, decide_eq_true_eq]
  split
  next hodd =>
    have hsum : e >>> n = e >>> (n + 1) + e >>> (n + 1) + 1 := by omega
    rw [hsum, powTimes]
  next heven =>
    have hsum : e >>> n = e >>> (n + 1) + e >>> (n + 1) := by omega
    rw [hsum]

end Laws

/-! ### A result register -/

/-- A command whose rule answers one register value completes with it and changes nothing else
(60_exceptions.md R305). -/
theorem exec_completesWithRegs {i : Instr} {s : State} {rd : Reg} {v : Word}
    (h : exec i s = .next (s.complete (okReg rd v))) :
    ∃ t, exec i s = .next t ∧ s.CompletesWithRegs t [(rd, v)] := by
  refine ⟨_, h, ⟨rfl, rfl, rfl, rfl, rfl, rfl, rfl, ⟨rfl, rfl, rfl, rfl, rfl, rfl⟩⟩, ⟨?_, ?_⟩,
    fun _ => rfl, ⟨rfl, rfl⟩⟩
  · simpa [okReg, Regs.writeAll] using Regs.read_write_same s.g rd v
  · intro q hq
    exact Regs.read_write_other s.g v (by simpa using hq)

/-- A command whose rule raises completes with that error (60_exceptions.md R305, R306). -/
theorem exec_completedErr {i : Instr} {s : State} {c : ErrCode} {info : Nat}
    (h : exec i s = .next (s.complete (raise c info))) :
    ∃ t, exec i s = .next t ∧ s.CompletedErr t c (BitVec.ofNat 32 info) :=
  ⟨_, h, s.completedErr_takeError c _⟩

end Sys2Proof.Machine

namespace Sys2Proof.Machine

/-! CLAIMS. GF(2^8): its laws, its commands' results, inverses and logarithms (40_gf256.md). -/

theorem gf8Mul_isRingProduct : IsRingProduct gf8Mul := by
  have heq : gf8Mul = fun a b => doublingSum gf8Double a b 8 :=
    funext fun a => funext fun b => gf8Mul_eq_doublingSum a b
  rw [heq]
  exact gf8Double_isDouble.isRingProduct (by decide)

/-! ### Powers -/

theorem gf8PowTimes_eq (a : Byte) (n : Nat) : gf8PowTimes a n = powTimes gf8Mul a n := by
  induction n with
  | zero => rfl
  | succ n ih => rw [gf8PowTimes, ih, gf8MulPoly_eq, powTimes]

/-- With n bits to go, r holds the power of a by the exponent's bits above them
(40_gf256.md R136). -/
theorem gf8PowLoop_powTimes (a : Byte) (e : Word) (n : Nat) :
    gf8PowLoop a e n (powTimes gf8Mul a (e.toNat >>> n)) = powTimes gf8Mul a e.toNat := by
  induction n with
  | zero => rfl
  | succ n ih =>
    rw [gf8PowLoop, BitVec.getLsbD, gf8Mul_isRingProduct.powTimes_shiftRight rfl, ih]

theorem gf8Pow_eq (a : Byte) (e : Word) : gf8Pow a e = powTimes gf8Mul a e.toNat := by
  have hzero : e.toNat >>> 32 = 0 := by
    rw [Nat.shiftRight_eq_div_pow]; exact Nat.div_eq_of_lt e.isLt
  have hloop := gf8PowLoop_powTimes a e 32
  rwa [hzero] at hloop

/-! ### The tables

The entries of EXP8 and LOG8 are constants, so the three facts that tie them to each other and to the
product are checked slot by slot. -/

/-- EXP8 counts powers of 0x03, and its last slot closes the cycle (40_gf256.md R131). -/
theorem exp8_succ : ∀ k : Fin 255,
    exp8 (BitVec.ofNat 8 (k.val + 1)) = gf8Mul (exp8 (BitVec.ofNat 8 k.val)) 3 := by
  decide +kernel

/-- LOG8 undoes EXP8 on 0..254, every slot but the repeated last one (40_gf256.md R131). -/
theorem log8_exp8 : ∀ k : Fin 255, (log8 (exp8 (BitVec.ofNat 8 k.val))).toNat = k.val := by
  decide +kernel

/-- EXP8 undoes LOG8 on every nonzero element (40_gf256.md R131). -/
theorem exp8_log8 : ∀ a : Byte, a ≠ 0 → (log8 a).toNat ≤ 254 ∧ exp8 (log8 a) = a := by
  decide +kernel

theorem exp8_ofNat_eq {k : Nat} (hk : k ≤ 255) :
    exp8 (BitVec.ofNat 8 k) = powTimes gf8Mul 3 k := by
  induction k with
  | zero => rfl
  | succ k ih => rw [exp8_succ ⟨k, hk⟩, ih (Nat.le_of_succ_le hk), powTimes]

theorem exp8_eq (k : Byte) : exp8 k = powTimes gf8Mul 3 k.toNat := by
  simpa using exp8_ofNat_eq (Nat.le_of_lt_succ k.isLt)

theorem powTimes_three_255 : powTimes gf8Mul 3 255 = 1 :=
  (exp8_ofNat_eq le_rfl).symm.trans rfl

theorem powTimes_three_log8 {a : Byte} (ha : a ≠ 0) : powTimes gf8Mul 3 (log8 a).toNat = a := by
  rw [← exp8_eq]
  exact (exp8_log8 a ha).2

theorem log8_powTimes_three {k : Nat} (hk : k ≤ 254) : (log8 (powTimes gf8Mul 3 k)).toNat = k := by
  rw [← exp8_ofNat_eq (Nat.le_succ_of_le hk)]
  exact log8_exp8 ⟨k, Nat.lt_succ_of_le hk⟩

/-- Every nonzero element is a power of 0x03, whose order is 255 (40_gf256.md R131, R139). -/
theorem powTimes_255 {a : Byte} (ha : a ≠ 0) : powTimes gf8Mul a 255 = 1 := by
  have h := gf8Mul_isRingProduct
  calc powTimes gf8Mul a 255 = powTimes gf8Mul 3 ((log8 a).toNat * 255) := by
        rw [h.powTimes_mul, powTimes_three_log8 ha]
    _ = powTimes gf8Mul (powTimes gf8Mul 3 255) (log8 a).toNat := by
        rw [Nat.mul_comm, h.powTimes_mul]
    _ = 1 := by rw [powTimes_three_255, h.powTimes_one]

/-- a to the power 254 is an inverse of a (40_gf256.md R135). -/
theorem gf8Mul_gf8Inv {a : Byte} (ha : a ≠ 0) : gf8Mul a (gf8Inv a) = 1 := by
  calc gf8Mul a (gf8Inv a) = gf8Mul (powTimes gf8Mul a 254) a := by
        rw [gf8Inv, gf8Pow_eq, gf8Mul_isRingProduct.comm]; rfl
    _ = 1 := powTimes_255 ha

/-- EXP8 as 40_gf256.md R137 reads it: its last slot holds 1. -/
theorem exp8_eq_ite (k : Byte) : exp8 k = if k = 255 then 1 else gf8PowTimes 3 k.toNat := by
  rw [gf8PowTimes_eq, ← exp8_eq]
  split
  next h => rw [h]; rfl
  next => rfl

/-! ### The commands with an operand that must not be zero -/

theorem gf8Nonzero_of_ne {op : Nat} {f : Byte → Byte} {rd rs1 : Reg} {v : Snapshot}
    (h : low8 (v.reg rs1) ≠ 0) :
    gf8Nonzero op f rd rs1 v = okReg rd ((f (low8 (v.reg rs1))).setWidth 32) := if_neg h

theorem gf8Nonzero_of_eq {op : Nat} {f : Byte → Byte} {rd rs1 : Reg} {v : Snapshot}
    (h : low8 (v.reg rs1) = 0) : gf8Nonzero op f rd rs1 v = raise .zeroElement op := if_pos h

theorem exec_gf8Inv (rd rs1 : Reg) (s : State) : exec (.gf8Inv rd rs1) s =
    .next (s.complete (gf8Nonzero 0x12 gf8Inv rd rs1 s.view)) := rfl

theorem exec_gf8Log (rd rs1 : Reg) (s : State) : exec (.gf8Log rd rs1) s =
    .next (s.complete (gf8Nonzero 0x15 log8 rd rs1 s.view)) := rfl

theorem exec_gf10Inv_zero {rd rs1 : Reg} {s : State} (h : low10 (s.view.reg rs1) = 0) :
    exec (.gf10Inv rd rs1) s = .next (s.complete (raise .zeroElement 0x22)) :=
  congrArg (fun r => Host.Outcome.next (s.complete r)) (if_pos h)

/-- Only the low n bits count (10_state.md R32). -/
theorem setWidth_eq_zero_of_mod {x : Word} {n : Nat} (h : x.toNat % 2 ^ n = 0) : x.setWidth n = 0 :=
  BitVec.eq_of_toNat_eq (by rw [BitVec.toNat_setWidth, h]; rfl)

/-! ### The statements of 40_gf256.md -/

/-- Settles O31: the loop and the reduced carry-less product are one sum of doublings of a. -/
theorem mulIsThePolynomialProduct : Obligations.MulIsThePolynomialProduct :=
  ⟨fun a b => (gf8MulPoly_eq a b).symm, fun a b => (gf10MulPoly_eq a b).symm⟩

/-- Settles O32: doubling by 0x11B is linear, so its sums make a commutative ring. -/
theorem gf8IsACommutativeRing : Obligations.Gf8IsACommutativeRing := by
  have h := gf8Mul_isRingProduct
  exact fun a b c => ⟨rfl, BitVec.xor_assoc a b c, BitVec.xor_comm a b, BitVec.xor_zero,
    BitVec.xor_self, h.assoc a b c, h.comm a b, h.distrib a b c, h.one a, h.zero a⟩

/-- Settles O33: the commands' results are the reference forms, by the product's equation, the
square-and-multiply loop and the table's. -/
theorem gf8ResultsGoToRd : Obligations.Gf8ResultsGoToRd := by
  intro s rd rs1 rs2 a b
  refine ⟨exec_completesWithRegs rfl, ?_, ?_, ?_⟩
  · rw [gf8MulPoly_eq]
    exact exec_completesWithRegs rfl
  · rw [gf8PowTimes_eq, ← gf8Pow_eq]
    exact exec_completesWithRegs rfl
  · rw [← exp8_eq_ite]
    exact exec_completesWithRegs rfl

/-- Settles O34: a to the power 254 is an inverse, since every nonzero a is a power of 0x03. -/
theorem gf8InvGivesTheUniqueInverse : Obligations.Gf8InvGivesTheUniqueInverse := by
  intro s rd rs1 a ha
  obtain ⟨t, ht, hregs⟩ := exec_completesWithRegs (gf8Nonzero_of_ne ha ▸ exec_gf8Inv rd rs1 s)
  simp only [gf8MulPoly_eq]
  exact ⟨t, gf8Inv a, ht, hregs, gf8Mul_gf8Inv ha,
    fun c hc => gf8Mul_isRingProduct.inverse_unique (gf8Mul_gf8Inv ha) hc⟩

/-- Settles O35: EXP8 and LOG8 invert each other on the nonzero elements and 0..254. -/
theorem gf8LogGivesTheUniqueLogarithm : Obligations.Gf8LogGivesTheUniqueLogarithm := by
  intro s rd rs1 a ha
  obtain ⟨t, ht, hregs⟩ := exec_completesWithRegs (gf8Nonzero_of_ne ha ▸ exec_gf8Log rd rs1 s)
  simp only [gf8PowTimes_eq]
  refine ⟨t, (log8 a).toNat, ht, ?_, (exp8_log8 a ha).1, powTimes_three_log8 ha, fun j hj h => ?_⟩
  · rw [BitVec.ofNat_toNat]
    exact hregs
  · rw [← log8_powTimes_three hj, h]

/-- Settles O36: the operand is 0 in its field, so the rule's only check fires. -/
theorem zeroHasNoInverseAndNoLogarithm : Obligations.ZeroHasNoInverseAndNoLogarithm := by
  intro s rd rs1
  refine ⟨fun h8 => ⟨?_, ?_⟩, fun h10 => ?_⟩
  · exact exec_completedErr (gf8Nonzero_of_eq (setWidth_eq_zero_of_mod h8) ▸ exec_gf8Inv rd rs1 s)
  · exact exec_completedErr (gf8Nonzero_of_eq (setWidth_eq_zero_of_mod h8) ▸ exec_gf8Log rd rs1 s)
  · exact exec_completedErr (exec_gf10Inv_zero (setWidth_eq_zero_of_mod h10))

end Sys2Proof.Machine

namespace Sys2Proof.Machine

/-! CLAIMS. GF(2^10): its commands' results and inverses (41_gf1024.md). -/

theorem gf10Mul_isRingProduct : IsRingProduct gf10Mul := by
  have heq : gf10Mul = fun a b => doublingSum gf10Double a b 10 :=
    funext fun a => funext fun b => gf10Mul_eq_doublingSum a b
  rw [heq]
  exact gf10Double_isDouble.isRingProduct (by decide)

/-! ### Powers -/

theorem gf10PowTimes_eq (a : Word10) (n : Nat) : gf10PowTimes a n = powTimes gf10Mul a n := by
  induction n with
  | zero => rfl
  | succ n ih => rw [gf10PowTimes, ih, gf10MulPoly_eq, powTimes]

/-- With n bits to go, r holds the power of a by the exponent's bits above them
(41_gf1024.md R166). -/
theorem gf10PowLoop_powTimes (a : Word10) (e : Word) (n : Nat) :
    gf10PowLoop a e n (powTimes gf10Mul a (e.toNat >>> n)) = powTimes gf10Mul a e.toNat := by
  induction n with
  | zero => rfl
  | succ n ih =>
    rw [gf10PowLoop, BitVec.getLsbD, gf10Mul_isRingProduct.powTimes_shiftRight rfl, ih]

theorem gf10Pow_eq (a : Word10) (e : Word) : gf10Pow a e = powTimes gf10Mul a e.toNat := by
  have hloop := gf10PowLoop_powTimes a e 32
  rwa [Nat.shiftRight_eq_zero _ _ e.isLt] at hloop

/-! ### The powers of x

GF(2^10) has no table of logarithms, so that x generates the nonzero elements is not read off one: the
order of x divides 1023 = 3 * 11 * 31 and none of 1023/3, 1023/11 and 1023/31, so it is 1023, and the
1023 powers are as many as the nonzero elements (41_gf1024.md R160). -/

theorem powTimes_eq_iterate {w : Nat} (mul : BitVec w → BitVec w → BitVec w) (a : BitVec w)
    (n : Nat) : powTimes mul a n = (mul · a)^[n] 1 := by
  induction n with
  | zero => rfl
  | succ n ih => rw [powTimes, ih, Function.iterate_succ_apply']

/-- The powers of x that its order turns on, by square-and-multiply. -/
theorem gf10Pow_two : gf10Pow 2 1023 = 1 ∧ gf10Pow 2 341 ≠ 1 ∧ gf10Pow 2 93 ≠ 1 ∧
    gf10Pow 2 33 ≠ 1 := by
  decide +kernel

theorem powTimes_two_1023 : powTimes gf10Mul 2 1023 = 1 :=
  (gf10Pow_eq 2 1023).symm.trans gf10Pow_two.1

/-- A proper divisor of 1023 = 3 * 11 * 31 lacks one of the three primes. -/
theorem dvd_1023_cases : ∀ d ≤ 1023, d ∣ 1023 → d = 1023 ∨ d ∣ 341 ∨ d ∣ 93 ∨ d ∣ 33 := by
  decide +kernel

/-- x^n is 1 exactly when the order of x divides n. -/
theorem gf10Pow_two_eq_one_iff (e : Word) :
    gf10Pow 2 e = 1 ↔ Function.minimalPeriod (gf10Mul · 2) 1 ∣ e.toNat := by
  rw [gf10Pow_eq, powTimes_eq_iterate]
  exact Function.isPeriodicPt_iff_minimalPeriod_dvd

/-- The order of x is 1023 (41_gf1024.md R160). -/
theorem minimalPeriod_gf10Mul_two : Function.minimalPeriod (gf10Mul · 2) 1 = 1023 := by
  obtain ⟨h1023, h341, h93, h33⟩ := gf10Pow_two
  rw [gf10Pow_two_eq_one_iff] at h1023
  rw [Ne, gf10Pow_two_eq_one_iff] at h341 h93 h33
  rcases dvd_1023_cases _ (Nat.le_of_dvd (by decide) h1023) h1023 with h | h | h | h
  · exact h
  · exact absurd h h341
  · exact absurd h h93
  · exact absurd h h33

theorem powTimes_two_ne_zero {k : Nat} (hk : k ≤ 1023) : powTimes gf10Mul 2 k ≠ 0 := by
  intro h0
  have h := gf10Mul_isRingProduct
  have hone : (1 : Word10) = 0 := by
    calc (1 : Word10) = powTimes gf10Mul 2 (1023 - k + k) := by
          rw [Nat.sub_add_cancel hk, powTimes_two_1023]
      _ = 0 := by rw [h.powTimes_add, h0, h.zero]
  exact absurd hone (by decide)

/-- x generates the nonzero elements (41_gf1024.md R160). -/
theorem exists_powTimes_two {a : Word10} (ha : a ≠ 0) : ∃ k, powTimes gf10Mul 2 k = a := by
  have hmaps : Set.MapsTo (powTimes gf10Mul 2) (Finset.range 1023) (Finset.univ.erase (0 : Word10)) :=
    fun k hk => by
      simpa using powTimes_two_ne_zero (Nat.le_of_lt (Finset.mem_range.1 hk))
  have hinj : Set.InjOn (powTimes gf10Mul 2) (Finset.range 1023) := by
    rw [Finset.coe_range, ← minimalPeriod_gf10Mul_two, funext (powTimes_eq_iterate gf10Mul 2)]
    exact Function.iterate_injOn_Iio_minimalPeriod
  have hcard : (Finset.univ.erase (0 : Word10)).card ≤ (Finset.range 1023).card := by
    rw [Finset.card_erase_of_mem (Finset.mem_univ _), Finset.card_univ,
      ← FinEnum.card_eq_fintypeCard, FinEnum.card_bitVec, Finset.card_range]
    exact le_rfl
  obtain ⟨k, -, hk⟩ := Finset.surjOn_of_injOn_of_card_le _ hmaps hinj hcard
    (Finset.mem_coe.2 (Finset.mem_erase.2 ⟨ha, Finset.mem_univ a⟩))
  exact ⟨k, hk⟩

/-- Every nonzero element is a power of x, so its order divides that of x (41_gf1024.md R167). -/
theorem powTimes_1023 {a : Word10} (ha : a ≠ 0) : powTimes gf10Mul a 1023 = 1 := by
  have h := gf10Mul_isRingProduct
  obtain ⟨k, rfl⟩ := exists_powTimes_two ha
  rw [← h.powTimes_mul, Nat.mul_comm, h.powTimes_mul, powTimes_two_1023, h.powTimes_one]

/-- a to the power 1022 is an inverse of a (41_gf1024.md R165). -/
theorem gf10Mul_gf10Inv {a : Word10} (ha : a ≠ 0) : gf10Mul a (gf10Inv a) = 1 := by
  calc gf10Mul a (gf10Inv a) = gf10Mul (powTimes gf10Mul a 1022) a := by
        rw [gf10Inv, gf10Pow_eq, gf10Mul_isRingProduct.comm]; rfl
    _ = 1 := powTimes_1023 ha

/-! ### The statements of 41_gf1024.md -/

theorem exec_gf10Inv_of_ne {rd rs1 : Reg} {s : State} (h : low10 (s.view.reg rs1) ≠ 0) :
    exec (.gf10Inv rd rs1) s =
      .next (s.complete (okReg rd ((gf10Inv (low10 (s.view.reg rs1))).setWidth 32))) :=
  congrArg (fun r => Host.Outcome.next (s.complete r)) (if_neg h)

/-- Settles O37: the commands' results are the reference forms, by the product's equation and the
square-and-multiply loop's. -/
theorem gf10ResultsGoToRd : Obligations.Gf10ResultsGoToRd := by
  intro s rd rs1 rs2 a b
  refine ⟨exec_completesWithRegs rfl, ?_, ?_⟩
  · rw [gf10MulPoly_eq]
    exact exec_completesWithRegs rfl
  · rw [gf10PowTimes_eq, ← gf10Pow_eq]
    exact exec_completesWithRegs rfl

/-- Settles O38: a to the power 1022 is an inverse, since every nonzero a is a power of x. -/
theorem gf10InvGivesTheUniqueInverse : Obligations.Gf10InvGivesTheUniqueInverse := by
  intro s rd rs1 a ha
  obtain ⟨t, ht, hregs⟩ := exec_completesWithRegs (exec_gf10Inv_of_ne (rd := rd) ha)
  simp only [gf10MulPoly_eq]
  exact ⟨t, gf10Inv a, ht, hregs, gf10Mul_gf10Inv ha,
    fun c hc => gf10Mul_isRingProduct.inverse_unique (gf10Mul_gf10Inv ha) hc⟩

end Sys2Proof.Machine

namespace Sys2Proof.Machine

/-! SUPPORT. GF(2^8) as a field of Mathlib, and interpolation as evaluation of a polynomial over it
(42_shamir.md R183). `Byte` already carries the arithmetic modulo 256, which a field structure on
it would clash with: so the lemmas speak of a reading of bytes in any field, and one such reading
exists. -/

/-! ### GF(2^8) is a field -/

/-- A reading of words as elements of a field: XOR, `mul` and `inv` become its operations. -/
structure FieldReading {w : Nat} (mul : BitVec w → BitVec w → BitVec w) (inv : BitVec w → BitVec w)
    {F : Type} [Field F] (φ : BitVec w → F) : Prop where
  injective : Function.Injective φ
  map_xor : ∀ a b, φ (a ^^^ b) = φ a + φ b
  map_mul : ∀ a b, φ (mul a b) = φ a * φ b
  map_one : φ 1 = 1
  map_inv : ∀ a, φ (inv a) = (φ a)⁻¹

/-- The field that a product with inverses makes of the words (40_gf256.md R139). -/
abbrev IsRingProduct.field {w : Nat} {mul : BitVec w → BitVec w → BitVec w}
    {inv : BitVec w → BitVec w} (h : IsRingProduct mul)
    (hinv : ∀ a, a ≠ 0 → mul a (inv a) = 1) (hzero : inv 0 = 0) (hne : (0 : BitVec w) ≠ 1) :
    Field (BitVec w) :=
  @Field.ofMinimalAxioms (BitVec w) ⟨(· ^^^ ·)⟩ ⟨mul⟩ ⟨id⟩ ⟨inv⟩ ⟨0⟩ ⟨1⟩
    BitVec.xor_assoc (fun _ => BitVec.zero_xor) (fun _ => BitVec.xor_self)
    h.assoc h.comm h.one_left hinv hzero h.distrib ⟨0, 1, hne⟩

theorem IsRingProduct.exists_fieldReading {w : Nat} {mul : BitVec w → BitVec w → BitVec w}
    {inv : BitVec w → BitVec w} (h : IsRingProduct mul) (hinv : ∀ a, a ≠ 0 → mul a (inv a) = 1)
    (hzero : inv 0 = 0) (hne : (0 : BitVec w) ≠ 1) :
    ∃ (F : Type) (_ : Field F) (φ : BitVec w → F), FieldReading mul inv φ :=
  ⟨BitVec w, h.field hinv hzero hne, id, @FieldReading.mk w mul inv _ (h.field hinv hzero hne) id
    Function.injective_id (fun _ _ => rfl) (fun _ _ => rfl) rfl fun _ => rfl⟩

/-- A reading of bytes as the elements of GF(2^8) (40_gf256.md R130, R135). -/
abbrev Gf8Reading {F : Type} [Field F] (φ : Byte → F) : Prop := FieldReading gf8Mul gf8Inv φ

theorem exists_gf8Reading : ∃ (F : Type) (_ : Field F) (φ : Byte → F), Gf8Reading φ :=
  gf8Mul_isRingProduct.exists_fieldReading (fun _ => gf8Mul_gf8Inv) (by decide) (by decide)

section Reading

variable {F : Type} [Field F] {φ : Byte → F}

theorem Gf8Reading.map_zero (h : Gf8Reading φ) : φ 0 = 0 := by
  simpa using h.map_xor 0 0

/-- Subtraction is XOR too, the field having characteristic 2. -/
theorem Gf8Reading.map_xor_eq_sub (h : Gf8Reading φ) (a b : Byte) : φ (a ^^^ b) = φ a - φ b := by
  rw [eq_sub_iff_add_eq, ← h.map_xor, BitVec.xor_assoc, BitVec.xor_self, BitVec.xor_zero]

theorem Gf8Reading.map_foldl_add (h : Gf8Reading φ) (xs : List Byte) (a : Byte) :
    φ (xs.foldl gf8Add a) = φ a + (xs.map φ).sum := by
  induction xs generalizing a with
  | nil => simp
  | cons x xs ih =>
    rw [List.foldl_cons, ih, gf8Add, h.map_xor, List.map_cons, List.sum_cons, add_assoc]

theorem Gf8Reading.map_foldl_mul (h : Gf8Reading φ) (xs : List Byte) (a : Byte) :
    φ (xs.foldl gf8Mul a) = φ a * (xs.map φ).prod := by
  induction xs generalizing a with
  | nil => simp
  | cons x xs ih => rw [List.foldl_cons, ih, h.map_mul, List.map_cons, List.prod_cons, mul_assoc]

theorem Gf8Reading.map_gf8Sum (h : Gf8Reading φ) (xs : List Byte) :
    φ (gf8Sum xs) = (xs.map φ).sum := by
  rw [gf8Sum, h.map_foldl_add, h.map_zero, zero_add]

theorem Gf8Reading.map_gf8Prod (h : Gf8Reading φ) (xs : List Byte) :
    φ (gf8Prod xs) = (xs.map φ).prod := by
  rw [gf8Prod, h.map_foldl_mul, h.map_one, one_mul]

/-! ### The Lagrange basis -/

/-- The coordinates of the points other than the one at xi (42_shamir.md R183). -/
def otherXs (xs : List Byte) (xi : Byte) : List Byte := xs.filter (· ≠ xi)

theorem Gf8Reading.map_lagrangeBasis (h : Gf8Reading φ) (xs : List Byte) (xi x : Byte) :
    φ (lagrangeBasis xs xi x) = ((otherXs xs xi).map fun y => φ (x ^^^ y)).prod *
      ((otherXs xs xi).map fun y => φ (xi ^^^ y)).prod⁻¹ := by
  simp only [lagrangeBasis, otherXs, h.map_mul, h.map_inv, h.map_gf8Prod, List.map_map]
  rfl

theorem toFinset_otherXs (xs : List Byte) (xi : Byte) :
    (otherXs xs xi).toFinset = xs.toFinset.erase xi := by
  ext y; simp [otherXs, and_comm]

theorem prod_map_otherXs {xs : List Byte} (hxs : xs.Nodup) (xi : Byte) (f : Byte → F) :
    ((otherXs xs xi).map f).prod = ∏ y ∈ xs.toFinset.erase xi, f y := by
  have hothers : (otherXs xs xi).Nodup := hxs.filter _
  rw [← toFinset_otherXs, List.prod_toFinset f hothers]

/-- The model's basis is Mathlib's. -/
theorem Gf8Reading.map_lagrangeBasis_eq_eval (h : Gf8Reading φ) {xs : List Byte} (hxs : xs.Nodup)
    (xi x : Byte) :
    φ (lagrangeBasis xs xi x) = (Lagrange.basis xs.toFinset φ xi).eval (φ x) := by
  simp only [h.map_lagrangeBasis, prod_map_otherXs hxs, h.map_xor_eq_sub, Lagrange.basis,
    Lagrange.basisDivisor, Polynomial.eval_prod, Polynomial.eval_mul, Polynomial.eval_C,
    Polynomial.eval_sub, Polynomial.eval_X, Finset.prod_mul_distrib, Finset.prod_inv_distrib]
  exact mul_comm _ _

end Reading

/-! ### The value of a polynomial -/

/-- The pass-through shortcut at a point's own coordinate (42_shamir.md R183). -/
theorem interp1_of_mem {pts : List (Byte × Byte)} (hpts : (pts.map (·.1)).Nodup) {p : Byte × Byte}
    (hp : p ∈ pts) : interp1 pts p.1 = p.2 := by
  unfold interp1
  cases hf : pts.find? (fun q => q.1 == p.1) with
  | none => exact absurd (List.find?_eq_none.1 hf p hp) (by simp)
  | some q =>
    have hx : q.1 = p.1 := by simpa using List.find?_some hf
    rw [List.inj_on_of_nodup_map hpts (List.mem_of_find?_eq_some hf) hp hx]

/-- Off the points the value is the weighted sum (42_shamir.md R183). -/
theorem interp1_of_notMem {pts : List (Byte × Byte)} {x : Byte} (hx : x ∉ pts.map (·.1)) :
    interp1 pts x =
      gf8Sum (pts.map fun p => gf8Mul p.2 (lagrangeBasis (pts.map (·.1)) p.1 x)) := by
  have hf : pts.find? (fun p => p.1 == x) = none := by
    rw [List.find?_eq_none]
    intro p hp h
    exact hx (beq_iff_eq.1 h ▸ List.mem_map_of_mem hp)
  simp only [interp1, hf]

/-- The polynomial P goes through the points, and its degree is below their number
(42_shamir.md R183). -/
structure IsCurve {F : Type} [Field F] (φ : Byte → F) (P : Polynomial F)
    (pts : List (Byte × Byte)) : Prop where
  degree : P.degree < pts.length
  eval : ∀ p ∈ pts, P.eval (φ p.1) = φ p.2

section Curve

variable {F : Type} [Field F] {φ : Byte → F} {pts : List (Byte × Byte)}

theorem card_toFinset_map (hpts : (pts.map (·.1)).Nodup) :
    (pts.map (·.1)).toFinset.card = pts.length := by
  rw [List.toFinset_card_of_nodup hpts, List.length_map]

/-- Interpolation is evaluation of the polynomial through the points. -/
theorem Gf8Reading.map_interp1 (h : Gf8Reading φ) (hpts : (pts.map (·.1)).Nodup)
    {P : Polynomial F} (hP : IsCurve φ P pts) (x : Byte) :
    φ (interp1 pts x) = P.eval (φ x) := by
  by_cases hx : x ∈ pts.map (·.1)
  · obtain ⟨p, hp, rfl⟩ := List.mem_map.1 hx
    rw [interp1_of_mem hpts hp, hP.eval p hp]
  · have hdeg : P.degree < (pts.map (·.1)).toFinset.card := by
      rw [card_toFinset_map hpts]; exact hP.degree
    rw [Lagrange.eq_interpolate h.injective.injOn hdeg, Lagrange.interpolate_apply,
      Polynomial.eval_finsetSum, List.sum_toFinset _ hpts, interp1_of_notMem hx, h.map_gf8Sum,
      List.map_map, List.map_map]
    refine congrArg List.sum (List.map_congr_left fun p hp => ?_)
    simp only [Function.comp_apply, h.map_mul, h.map_lagrangeBasis_eq_eval hpts,
      Polynomial.eval_mul, Polynomial.eval_C, hP.eval p hp]

/-- Points with distinct coordinates have a polynomial through them. -/
theorem Gf8Reading.exists_isCurve (h : Gf8Reading φ) (hpts : (pts.map (·.1)).Nodup) :
    ∃ P : Polynomial F, IsCurve φ P pts := by
  refine ⟨Lagrange.interpolate (pts.map (·.1)).toFinset φ fun x => φ (interp1 pts x), ?_, ?_⟩
  · rw [← card_toFinset_map hpts]
    exact Lagrange.degree_interpolate_lt _ h.injective.injOn
  · intro p hp
    have hmem : p.1 ∈ (pts.map (·.1)).toFinset := List.mem_toFinset.2 (List.mem_map_of_mem hp)
    rw [Lagrange.eval_interpolate_at_node _ h.injective.injOn hmem, interp1_of_mem hpts hp]

end Curve

/-! ### What the polynomial gives -/

/-- Points in another order lie on the same polynomial (42_shamir.md R197). -/
theorem interp1_perm {pts pts' : List (Byte × Byte)} (hperm : pts.Perm pts')
    (hpts : (pts.map (·.1)).Nodup) (x : Byte) : interp1 pts x = interp1 pts' x := by
  obtain ⟨F, _, φ, h⟩ := exists_gf8Reading
  obtain ⟨P, hP⟩ := h.exists_isCurve hpts
  have hP' : IsCurve φ P pts' :=
    ⟨hperm.length_eq ▸ hP.degree, fun p hp => hP.eval p (hperm.mem_iff.2 hp)⟩
  apply h.injective
  rw [h.map_interp1 hpts hP, h.map_interp1 ((hperm.map _).nodup_iff.1 hpts) hP']

theorem map_fst_graph {β : Type} (f : Byte → β) (xs : List Byte) :
    (xs.map fun x => (x, f x)).map (·.1) = xs := by
  rw [List.map_map]
  exact List.map_id xs

/-- Values of a polynomial at as many coordinates as it has base points determine it
(42_shamir.md R191, R197). -/
theorem interp1_of_values {base : List (Byte × Byte)} {xs : List Byte}
    (hbase : (base.map (·.1)).Nodup) (hxs : xs.Nodup) (hlen : base.length ≤ xs.length) (z : Byte) :
    interp1 (xs.map fun x => (x, interp1 base x)) z = interp1 base z := by
  obtain ⟨F, _, φ, h⟩ := exists_gf8Reading
  obtain ⟨P, hP⟩ := h.exists_isCurve hbase
  have hP' : IsCurve φ P (xs.map fun x => (x, interp1 base x)) := by
    refine ⟨?_, fun p hp => ?_⟩
    · rw [List.length_map]
      exact hP.degree.trans_le (by exact_mod_cast hlen)
    · obtain ⟨x, -, rfl⟩ := List.mem_map.1 hp
      exact (h.map_interp1 hbase hP x).symm
  apply h.injective
  rw [h.map_interp1 ((map_fst_graph _ xs).symm ▸ hxs) hP', h.map_interp1 hbase hP]

/-- One point gives a constant (42_shamir.md R185). -/
theorem interp1_singleton (p : Byte × Byte) (x : Byte) : interp1 [p] x = p.2 := by
  obtain ⟨F, _, φ, h⟩ := exists_gf8Reading
  have hP : IsCurve φ (Polynomial.C (φ p.2)) [p] :=
    ⟨Polynomial.degree_C_le.trans_lt (by simp), by simp⟩
  apply h.injective
  rw [h.map_interp1 (pts := [p]) (List.nodup_singleton p.1) hP, Polynomial.eval_C]

/-! ### Lane by lane -/

theorem map_fst_lane (recs : List Point) (p : Nat) : (lane recs p).map (·.1) = recs.map (·.1) := by
  simp [lane]

theorem interp_congr {n : Nat} {recs recs' : List Point} {x x' : Byte}
    (h : ∀ p < n, interp1 (lane recs p) x = interp1 (lane recs' p) x') :
    interp n recs x = interp n recs' x' :=
  List.map_congr_left fun p hp => h p (List.mem_range.1 hp)

/-- A value is read off its lanes. -/
theorem interp_eq_of_lanes {n : Nat} {recs : List Point} {x : Byte} {v : List Byte}
    (hv : v.length = n) (h : ∀ p, interp1 (lane recs p) x = v.getD p 0) : interp n recs x = v := by
  apply List.ext_getElem (by rw [length_interp, hv])
  intro p hp hp'
  simp [interp, h, hp']

/-- Interpolation passes through its records (42_shamir.md R183). -/
theorem interp_of_mem {n : Nat} {recs : List Point} (hrecs : (recs.map (·.1)).Nodup)
    {r : Point} (hr : r ∈ recs) (hlen : r.2.length = n) : interp n recs r.1 = r.2 :=
  interp_eq_of_lanes hlen fun p =>
    interp1_of_mem (p := (r.1, r.2.getD p 0)) (by rwa [map_fst_lane])
      (List.mem_map_of_mem (f := fun r : Point => (r.1, r.2.getD p 0)) hr)

/-- Shares of a polynomial, as many as its base points, determine it (42_shamir.md R191, R197). -/
theorem interp_of_shares {n : Nat} {base : List Point} {xs : List Byte}
    (hbase : (base.map (·.1)).Nodup) (hxs : xs.Nodup) (hlen : base.length ≤ xs.length) (z : Byte) :
    interp n (xs.map fun x => (x, interp n base x)) z = interp n base z := by
  refine interp_congr fun p hp => ?_
  have hlane : lane (xs.map fun x => (x, interp n base x)) p =
      xs.map fun x => (x, interp1 (lane base p) x) := by
    simp [lane, interp, hp]
  rw [hlane]
  exact interp1_of_values (by rwa [map_fst_lane]) hxs (by simpa [lane] using hlen) z

end Sys2Proof.Machine

namespace Sys2Proof.Machine

/-! SUPPORT. The log-domain computation in the field: logarithms to the base 0x03 are exponents of
one element, so a sum of them is a product and a difference a quotient (42_shamir.md R184). -/

section Logarithms

variable {F : Type} [Field F] {φ : Byte → F}

theorem Gf8Reading.map_powTimes (h : Gf8Reading φ) (a : Byte) (n : Nat) :
    φ (powTimes gf8Mul a n) = φ a ^ n := by
  induction n with
  | zero => rw [powTimes, h.map_one, pow_zero]
  | succ n ih => rw [powTimes, h.map_mul, ih, pow_succ]

theorem Gf8Reading.pow_255 (h : Gf8Reading φ) : φ 3 ^ 255 = 1 := by
  rw [← h.map_powTimes, powTimes_three_255, h.map_one]

theorem Gf8Reading.three_ne_zero (h : Gf8Reading φ) : φ 3 ≠ 0 := by
  intro h0
  have h255 := h.pow_255
  rw [h0, zero_pow (by decide)] at h255
  exact zero_ne_one h255

theorem Gf8Reading.pow_log8 (h : Gf8Reading φ) {a : Byte} (ha : a ≠ 0) :
    φ 3 ^ (log8 a).toNat = φ a := by
  rw [← h.map_powTimes, powTimes_three_log8 ha]

/-- EXP8 at an exponent reduced modulo 255, negative ones included (40_gf256.md R131). -/
theorem Gf8Reading.map_exp8_emod (h : Gf8Reading φ) (k : Int) :
    φ (exp8 (BitVec.ofNat 8 (k % 255).toNat)) = φ 3 ^ k := by
  have hle : (k % 255).toNat ≤ 255 := by omega
  have hcast : ((k % 255).toNat : Int) = k % 255 := by omega
  have hperiod : φ 3 ^ (255 : Int) = 1 := by exact_mod_cast h.pow_255
  calc φ (exp8 (BitVec.ofNat 8 (k % 255).toNat)) = φ 3 ^ (k % 255) := by
        rw [exp8_ofNat_eq hle, h.map_powTimes, ← zpow_natCast, hcast]
    _ = φ 3 ^ (255 * (k / 255) + k % 255) := by
        rw [zpow_add₀ h.three_ne_zero, zpow_mul, hperiod, one_zpow, one_mul]
    _ = φ 3 ^ k := by rw [Int.mul_ediv_add_emod]

/-- The sum of the logarithms of c XOR y over the list (42_shamir.md R184). -/
def logSum (c : Byte) (ys : List Byte) : Nat := (ys.map fun y => (log8 (c ^^^ y)).toNat).sum

theorem Gf8Reading.pow_logSum (h : Gf8Reading φ) {c : Byte} {ys : List Byte} (hc : c ∉ ys) :
    φ 3 ^ logSum c ys = (ys.map fun y => φ (c ^^^ y)).prod := by
  induction ys with
  | nil => simp [logSum]
  | cons y ys ih =>
    obtain ⟨hy, hys⟩ := not_or.1 (mt List.mem_cons.2 hc)
    have hne : c ^^^ y ≠ 0 := fun h0 => hy (BitVec.xor_eq_zero_iff.1 h0)
    simp only [logSum, List.map_cons, List.sum_cons, List.prod_cons, pow_add, h.pow_log8 hne]
    rw [← ih hys, logSum]

/-- The source takes the sum over every point and then the point's own term away
(42_shamir.md R184). -/
theorem logSum_eq_add_otherXs {xs : List Byte} (hxs : xs.Nodup) {xi : Byte} (hxi : xi ∈ xs)
    (c : Byte) : logSum c xs = (log8 (c ^^^ xi)).toNat + logSum c (otherXs xs xi) := by
  have hothers : otherXs xs xi = xs.erase xi := by
    rw [hxs.erase_eq_filter]
    exact List.filter_congr fun y _ => by simp [bne, Bool.beq_eq_decide_eq]
  rw [hothers, logSum, logSum, List.sum_map_erase (fun y => (log8 (c ^^^ y)).toNat) hxi]

theorem Gf8Reading.pow_sub_logSum (h : Gf8Reading φ) {xs : List Byte} {xi x : Byte}
    (hx : x ∉ xs) :
    φ 3 ^ ((logSum x (otherXs xs xi) : Int) - logSum xi (otherXs xs xi)) =
      φ (lagrangeBasis xs xi x) := by
  have hx' : x ∉ otherXs xs xi := fun hmem => hx (List.mem_of_mem_filter hmem)
  have hxi : xi ∉ otherXs xs xi := by simp [otherXs]
  rw [zpow_sub₀ h.three_ne_zero, zpow_natCast, zpow_natCast, h.pow_logSum hx', h.pow_logSum hxi,
    h.map_lagrangeBasis, div_eq_mul_inv]

end Logarithms

/-- One point's term of the log-domain computation (42_shamir.md R184). -/
def logTerm (xs : List Byte) (x : Byte) (p : Byte × Byte) : Byte :=
  if p.2 = 0 then 0
  else exp8 (BitVec.ofNat 8 (((log8 p.2).toNat + ((logSum x xs : Int) - (log8 (x ^^^ p.1)).toNat -
    logSum p.1 (otherXs xs p.1))) % 255).toNat)

theorem interp1Log_eq (points : List (Byte × Byte)) (x : Byte) :
    interp1Log points x = gf8Sum (points.map (logTerm (points.map (·.1)) x)) := rfl

/-- A point's term is its weighted value (42_shamir.md R184). -/
theorem logTerm_eq {xs : List Byte} (hxs : xs.Nodup) {x : Byte} (hx : x ∉ xs) {p : Byte × Byte}
    (hp : p.1 ∈ xs) : logTerm xs x p = gf8Mul p.2 (lagrangeBasis xs p.1 x) := by
  obtain ⟨F, _, φ, h⟩ := exists_gf8Reading
  apply h.injective
  rw [logTerm, h.map_mul]
  split
  next h0 => rw [h0, h.map_zero, zero_mul]
  next hne =>
    have hexp : (logSum x xs : Int) - (log8 (x ^^^ p.1)).toNat - logSum p.1 (otherXs xs p.1) =
        logSum x (otherXs xs p.1) - logSum p.1 (otherXs xs p.1) := by
      rw [logSum_eq_add_otherXs hxs hp]; push_cast; ring
    rw [h.map_exp8_emod, hexp, zpow_add₀ h.three_ne_zero, zpow_natCast, h.pow_log8 hne,
      h.pow_sub_logSum hx]

end Sys2Proof.Machine

namespace Sys2Proof.Machine

/-! CLAIMS. Interpolation (42_shamir.md R183, R184, R197). -/

/-- Settles O40: in either order the records lie, lane by lane, on one polynomial. -/
theorem interpIgnoresRecordOrder : Obligations.InterpIgnoresRecordOrder := by
  intro n recs recs' x hperm hrecs
  exact interp_congr fun p _ =>
    interp1_perm (pts := lane recs p) (hperm.map _) (by rwa [map_fst_lane]) x

/-- Settles O41: the shortcut finds the record itself, and one record's polynomial is constant. -/
theorem interpPassesThroughItsRecords : Obligations.InterpPassesThroughItsRecords := by
  intro n recs hrecs hlen
  refine ⟨fun r hr => interp_of_mem hrecs hr (hlen r hr), ?_⟩
  rintro r x rfl
  exact interp_eq_of_lanes (hlen r (List.mem_singleton_self r)) fun p =>
    interp1_singleton (r.1, r.2.getD p 0) x

/-- Settles O42: each point's term is the power of 0x03 that its weighted value is. -/
theorem logDomainInterpolationAgrees : Obligations.LogDomainInterpolationAgrees := by
  intro points x _ hxs hx
  rw [interp1Log_eq, interp1_of_notMem hx]
  exact congrArg gf8Sum
    (List.map_congr_left fun p hp => logTerm_eq hxs hx (List.mem_map_of_mem hp))

end Sys2Proof.Machine

namespace Sys2Proof.Machine

/-! SUPPORT. The Shamir rules as a list of checks and the outcome behind them, and the point table
as a list of records (42_shamir.md R181, R185, R190, R195; 60_exceptions.md R302, R303). -/

/-! ### Checks in their order -/

/-- A rule's checks in their order, and the rest of it when none fires (60_exceptions.md R302). Each
entry says whether the check fires, and what it raises. -/
def checked : List (Bool × ErrCode × Nat) → Result → Result
  | [], body => body
  | (fires, code, info) :: rest, body => if fires then raise code info else checked rest body

theorem checked_of_find? {checks : List (Bool × ErrCode × Nat)} {fires : Bool} {code : ErrCode}
    {info : Nat} (body : Result) (h : checks.find? (·.1) = some (fires, code, info)) :
    checked checks body = raise code info := by
  induction checks with
  | nil => cases h
  | cons c rest ih =>
    obtain ⟨fires', code', info'⟩ := c
    cases fires' with
    | true => cases h; rfl
    | false => exact ih h

theorem checked_of_pass {checks : List (Bool × ErrCode × Nat)} (body : Result)
    (h : ∀ c ∈ checks, c.1 = false) : checked checks body = body := by
  induction checks with
  | nil => rfl
  | cons c rest ih =>
    obtain ⟨hc, hrest⟩ := List.forall_mem_cons.1 h
    rw [checked, hc, ih hrest]
    rfl

/-- What a rule behind checks can answer: an error, or what stands behind the checks. -/
theorem checked_cases (checks : List (Bool × ErrCode × Nat)) (body : Result) :
    (∃ code info, checked checks body = .err code info) ∨ checked checks body = body := by
  cases h : checks.find? (·.1) with
  | some c => exact .inl ⟨c.2.1, _, checked_of_find? body h⟩
  | none => exact .inr (checked_of_pass body fun c hc => by simpa using List.find?_eq_none.1 h c hc)

/-- A command behind checks reports the first one that fires (60_exceptions.md R303, R306). -/
theorem raisesFirst_of_checked {i : Instr} {s : State} {checks : List (Bool × ErrCode × Nat)}
    {body : Result} (h : exec i s = .next (s.complete (checked checks body))) :
    s.RaisesFirst i checks := by
  intro fires code info hfind
  rw [checked_of_find? body hfind] at h
  exact exec_completedErr h

theorem hasDuplicate_eq (xs : List Byte) : hasDuplicate xs = decide (¬ xs.Nodup) := by
  induction xs with
  | nil => rfl
  | cons x xs ih =>
    rw [hasDuplicate, ih]
    simp [List.nodup_cons]

/-! ### Completion without error -/

theorem State.completedOk_complete (s : State) (e : Effects) : s.CompletedOk (s.complete (.ok e)) :=
  ⟨rfl, rfl, rfl, rfl, rfl, rfl, rfl, ⟨rfl, rfl, rfl, rfl, rfl, rfl⟩⟩

/-- A command whose rule answers one byte string completes with it and changes nothing else
(60_exceptions.md R305). -/
theorem exec_completesWithBytes {i : Instr} {s : State} {a : Nat} {bs : List Byte}
    (hwf : s.buf.wf = true) (h : exec i s = .next (s.complete (okBytes a bs))) :
    ∃ t, exec i s = .next t ∧ s.CompletesWith t [] a bs :=
  ⟨_, h, s.completedOk_complete _, ⟨by simp, fun _ _ => rfl⟩, State.bufWritten_writeBytes hwf rfl,
    ⟨rfl, rfl⟩⟩

/-- The entropy port advances by what the outcome draws, which is nothing on an error
(60_exceptions.md R306). -/
theorem State.complete_entropy (s : State) (r : Result) :
    (s.complete r).entropyPos = s.entropyPos + r.draws ∧
      (s.complete r).entropyIn = s.entropyIn.drop r.draws := by
  cases r with
  | ok e => exact ⟨rfl, rfl⟩
  | err c info => exact ⟨rfl, rfl⟩

theorem State.entropyKept_complete {s : State} {r : Result} (h : r.draws = 0) :
    s.EntropyKept (s.complete r) := by
  obtain ⟨hpos, hin⟩ := s.complete_entropy r
  rw [h] at hpos hin
  exact ⟨hpos, hin⟩

/-! ### SSS.INTERP -/

/-- The checks of 42_shamir.md R185. -/
def interpChecks (v : Snapshot) : List (Bool × ErrCode × Nat) := [
  (v.regNat 3 = 0, .invalidLength, 3),
  (255 < v.regNat 4, .invalidParameter, 4),
  (v.regNat 2 = 0, .insufficientShares, 1),
  (¬ ((readRecords v.buf (v.regNat 1) (v.regNat 2) (v.regNat 3)).map (·.1)).Nodup,
    .invalidShareData, 1)]

/-- What an interpolation with valid operands writes (42_shamir.md R185). -/
def interpBody (v : Snapshot) : Result :=
  okBytes (v.regNat 5) (interp (v.regNat 3)
    (readRecords v.buf (v.regNat 1) (v.regNat 2) (v.regNat 3)) (BitVec.ofNat 8 (v.regNat 4)))

theorem interpRule_eq (size : Nat) (v : Snapshot) :
    interpRule size v = withRegions size (regionsOf .sssInterp v)
      (checked (interpChecks v) (interpBody v)) := by
  refine congrArg (withRegions size _) ?_
  simp only [checked, interpChecks, interpBody, hasDuplicate_eq, decide_eq_true_eq]
  rfl

theorem exec_sssInterp {s : State} (hr : RegionsOk .sssInterp s) :
    exec .sssInterp s =
      .next (s.complete (checked (interpChecks s.view) (interpBody s.view))) := by
  rw [← withRegions_of_regionOk hr (checked _ _), ← interpRule_eq]
  rfl

/-! ### SSS.SPLIT -/

/-- The checks of 42_shamir.md R190. -/
def splitChecks (v : Snapshot) : List (Bool × ErrCode × Nat) := [
  (v.regNat 3 < 1 ∨ v.regNat 4 < v.regNat 3, .invalidThreshold, 3),
  (255 < v.regNat 4, .invalidThreshold, 4),
  (¬ (v.buf.readBytes (v.regNat 5) (v.regNat 4)).Nodup, .invalidShareData, 1),
  ((v.buf.readBytes (v.regNat 5) (v.regNat 4)).any reservedX, .invalidShareData, 2),
  (v.regNat 2 = 0 ∨ (2 ≤ v.regNat 3 ∧ v.regNat 2 ≤ 4), .invalidLength, 2)]

/-- What a split with valid operands writes and draws (42_shamir.md R190, R192). -/
def splitEffects (E : Nat → Byte) (v : Snapshot) : Effects where
  addr := v.regNat 6
  bytes := (v.buf.readBytes (v.regNat 5) (v.regNat 4)).flatMap fun x =>
    x :: shareValue E (v.buf.readBytes (v.regNat 1) (v.regNat 2)) (v.regNat 3) x
  draws := if v.regNat 3 = 1 then 0 else splitDraws (v.regNat 2) (v.regNat 3)

theorem splitRule_eq (E : Nat → Byte) (size : Nat) (v : Snapshot) :
    splitRule E size v = withRegions size (regionsOf .sssSplit v)
      (checked (splitChecks v) (.ok (splitEffects E v))) := by
  refine congrArg (withRegions size _) ?_
  simp only [checked, splitChecks, splitEffects, hasDuplicate_eq, bytesOfRecords, List.flatMap_map,
    decide_eq_true_eq, ite_or]

theorem exec_sssSplit {s : State} (hr : RegionsOk .sssSplit s) :
    exec .sssSplit s = .next (s.complete (checked (splitChecks s.view)
      (.ok (splitEffects s.entropyAhead s.view)))) := by
  rw [← withRegions_of_regionOk hr (checked _ _), ← splitRule_eq]
  rfl

theorem any_reservedX (xs : List Byte) : xs.any reservedX = true ↔ ∃ x ∈ xs, x = 254 ∨ x = 255 := by
  simp [reservedX]

theorem any_reservedX_eq_false {xs : List Byte} (h : ∀ x ∈ xs, x ≠ 254 ∧ x ≠ 255) :
    xs.any reservedX = false := by
  simpa [reservedX] using h

/-- A split either ends in error or draws what R192 says. -/
theorem splitRule_cases (E : Nat → Byte) (size : Nat) (v : Snapshot) :
    (∃ code info, splitRule E size v = .err code info) ∨
      splitRule E size v = .ok (splitEffects E v) := by
  rw [splitRule_eq]
  rcases withRegions_cases size (regionsOf .sssSplit v)
    (checked (splitChecks v) (.ok (splitEffects E v))) with ⟨a, -, he⟩ | ⟨-, he⟩
  · exact .inl ⟨_, _, he⟩
  · rw [he]
    exact checked_cases _ _

/-! ### SSS.RECON -/

/-- The checks of 42_shamir.md R195. -/
def reconChecks (v : Snapshot) : List (Bool × ErrCode × Nat) :=
  let xs := (readRecords v.buf (v.regNat 1) (v.regNat 2) (v.regNat 3)).map (·.1)
  [(v.regNat 4 < 1 ∨ 255 < v.regNat 4, .invalidThreshold, 4),
    (v.regNat 2 < v.regNat 4, .insufficientShares, min (v.regNat 2) 0xFFFF * 2 ^ 16 + v.regNat 4),
    (v.regNat 3 = 0, .invalidLength, 3),
    (2 ≤ v.regNat 4 ∧ v.regNat 3 ≤ 4, .invalidLength, 3),
    (¬ xs.Nodup, .invalidShareData, 1),
    (xs.any fun x => x == 254 || x == 255, .invalidShareData, 2)]

/-- What a reconstruction answers behind its checks (42_shamir.md R195, R196). -/
def reconBody (v : Snapshot) : Result :=
  let recs := readRecords v.buf (v.regNat 1) (v.regNat 2) (v.regNat 3)
  let d := interp (v.regNat 3) recs 254
  let secret := interp (v.regNat 3) recs 255
  if v.regNat 4 = 1 then okBytes (v.regNat 5) ((recs.map (·.2)).headD [])
  else if digest (d.drop 4) secret = d.take 4 then okBytes (v.regNat 5) secret
  else raise .digestVerificationFailed 0

theorem reconRule_eq (size : Nat) (v : Snapshot) :
    reconRule size v = withRegions size (regionsOf .sssRecon v)
      (checked (reconChecks v) (reconBody v)) := by
  refine congrArg (withRegions size _) ?_
  simp only [checked, reconChecks, reconBody, hasDuplicate_eq, decide_eq_true_eq, List.any_map]
  rfl

theorem exec_sssRecon {s : State} (hr : RegionsOk .sssRecon s) :
    exec .sssRecon s =
      .next (s.complete (checked (reconChecks s.view) (reconBody s.view))) := by
  rw [← withRegions_of_regionOk hr (checked _ _), ← reconRule_eq]
  rfl

theorem headD_readRecords {m : Memory} {P k n : Nat} (hk : k ≠ 0) :
    ((readRecords m P k n).map (·.2)).headD [] = m.readBytes (P + 1) n := by
  obtain ⟨k, rfl⟩ := Nat.exists_eq_succ_of_ne_zero hk
  simp [readRecords, List.range_succ_eq_map]

theorem reconBody_of_one {v : Snapshot} (hT : v.regNat 4 = 1) (hk : v.regNat 2 ≠ 0) :
    reconBody v = okBytes (v.regNat 5) (v.buf.readBytes (v.regNat 1 + 1) (v.regNat 3)) := by
  rw [reconBody, if_pos hT, headD_readRecords hk]

theorem reconBody_of_two_le {v : Snapshot} {recs : List Point} (hT : 2 ≤ v.regNat 4)
    (hrecs : readRecords v.buf (v.regNat 1) (v.regNat 2) (v.regNat 3) = recs) :
    reconBody v =
      if digest ((interp (v.regNat 3) recs 254).drop 4) (interp (v.regNat 3) recs 255) =
          (interp (v.regNat 3) recs 254).take 4 then
        okBytes (v.regNat 5) (interp (v.regNat 3) recs 255)
      else raise .digestVerificationFailed 0 := by
  rw [reconBody, if_neg (by omega), hrecs]

/-! ### The point table -/

theorem Memory.readBytes_add (m : Memory) (a k n : Nat) :
    m.readBytes a (k + n) = m.readBytes a k ++ m.readBytes (a + k) n := by
  simp [Memory.readBytes, List.range_add, Nat.add_assoc]

theorem readRecords_succ (m : Memory) (P k n : Nat) :
    readRecords m P (k + 1) n =
      (m.read P, m.readBytes (P + 1) n) :: readRecords m (P + (1 + n)) k n := by
  simp only [readRecords, List.range_succ_eq_map, List.map_cons, List.map_map, Nat.zero_mul,
    Nat.add_zero, List.cons.injEq, true_and]
  refine List.map_congr_left fun j _ => ?_
  have haddr : P + (j + 1) * (1 + n) = P + (1 + n) + j * (1 + n) := by ring
  simp only [Function.comp_apply, haddr]

theorem length_of_mem_readRecords {m : Memory} {P k n : Nat} {r : Point}
    (h : r ∈ readRecords m P k n) : r.2.length = n := by
  obtain ⟨j, -, rfl⟩ := List.mem_map.1 h
  exact Memory.length_readBytes _ _ _

/-- The table's region holds the records one after another (42_shamir.md R181). -/
theorem bytesOfRecords_readRecords (m : Memory) (P k n : Nat) :
    bytesOfRecords (readRecords m P k n) = m.readBytes P (k * (1 + n)) := by
  induction k generalizing P with
  | zero => simp [readRecords, bytesOfRecords, Memory.readBytes]
  | succ k ih =>
    have hx : m.readBytes P 1 = [m.read P] := rfl
    have hlen : (k + 1) * (1 + n) = 1 + n + k * (1 + n) := by ring
    rw [hlen, Memory.readBytes_add, Memory.readBytes_add, hx, readRecords_succ, ← ih]
    rfl

/-- Tables of records of one length are equal when their bytes are. -/
theorem bytesOfRecords_injective {n : Nat} : ∀ {recs recs' : List Point},
    (∀ r ∈ recs, r.2.length = n) → (∀ r ∈ recs', r.2.length = n) →
      bytesOfRecords recs = bytesOfRecords recs' → recs = recs'
  | [], [], _, _, _ => rfl
  | [], _ :: _, _, _, h => by simp [bytesOfRecords] at h
  | _ :: _, [], _, _, h => by simp [bytesOfRecords] at h
  | (x, y) :: recs, (x', y') :: recs', hn, hn', h => by
    obtain ⟨hy, hrecs⟩ := List.forall_mem_cons.1 hn
    obtain ⟨hy', hrecs'⟩ := List.forall_mem_cons.1 hn'
    simp only [bytesOfRecords, List.flatMap_cons, List.cons_append, List.cons.injEq] at h
    obtain ⟨hx, happ⟩ := h
    obtain ⟨hval, hrest⟩ := List.append_inj happ (hy.trans hy'.symm)
    rw [hx, hval, bytesOfRecords_injective hrecs hrecs' hrest]

/-- A table that holds a value for each x, one after another, is read as these records. -/
theorem readRecords_eq_graph {m : Memory} {P n : Nat} {xs : List Byte} {f : Byte → List Byte}
    (hf : ∀ x, (f x).length = n)
    (h : m.readBytes P (xs.length * (1 + n)) = xs.flatMap fun x => x :: f x) :
    readRecords m P xs.length n = xs.map fun x => (x, f x) := by
  refine bytesOfRecords_injective (fun _ => length_of_mem_readRecords) (by simp [hf]) ?_
  rw [bytesOfRecords_readRecords, h, bytesOfRecords, List.flatMap_map]

/-! ### Words and bytes -/

theorem bytesOfWord_wordOfBytes (b0 b1 b2 b3 : Byte) :
    bytesOfWord (wordOfBytes b0 b1 b2 b3) = [b0, b1, b2, b3] := by
  have h := toNat_wordOfBytes b0 b1 b2 b3
  simp only [bytesOfWord, List.cons.injEq, and_true]
  refine ⟨?_, ?_, ?_, ?_⟩ <;> apply BitVec.eq_of_toNat_eq <;>
    rw [BitVec.extractLsb'_toNat, h, Nat.shiftRight_eq_div_pow] <;> omega

theorem length_digest (key msg : List Byte) : (digest key msg).length = 4 := by
  simp [digest]

/-- The word that SSS.DIGEST forms of the digest's four bytes (42_shamir.md R188). -/
theorem bytesOfWord_digest {d : List Byte} (hd : d.length = 4) :
    bytesOfWord (wordOfBytes (d.getD 0 0) (d.getD 1 0) (d.getD 2 0) (d.getD 3 0)) = d := by
  rw [bytesOfWord_wordOfBytes]
  match d, hd with
  | [_, _, _, _], _ => rfl

/-! ### The base points of a split -/

theorem map_fst_splitBase (E : Nat → Byte) (secret : List Byte) (T : Nat) :
    (splitBase E secret T).map (·.1) = (List.range (T - 2)).map (BitVec.ofNat 8) ++ [254, 255] := by
  simp [splitBase]

theorem length_splitBase {E : Nat → Byte} {secret : List Byte} {T : Nat} (hT : 2 ≤ T) :
    (splitBase E secret T).length = T := by
  simp [splitBase]; omega

/-- The auxiliary coordinates 0 .. T-3 are below the two reserved ones (42_shamir.md R191). -/
theorem nodup_splitBase {E : Nat → Byte} {secret : List Byte} {T : Nat} (hT : T ≤ 255) :
    ((splitBase E secret T).map (·.1)).Nodup := by
  have hinj : ∀ j < T - 2, ∀ k < 256, BitVec.ofNat 8 j = BitVec.ofNat 8 k → j = k := by
    intro j hj k hk h
    have := congrArg BitVec.toNat h
    simp only [BitVec.toNat_ofNat] at this
    omega
  rw [map_fst_splitBase, List.nodup_append]
  refine ⟨List.Nodup.map_on ?_ List.nodup_range, by decide, ?_⟩
  · intro j hj k hk
    have := List.mem_range.1 hk
    exact hinj j (List.mem_range.1 hj) k (by omega)
  · simp only [List.mem_map, List.mem_range, List.mem_cons, List.not_mem_nil, or_false]
    rintro _ ⟨j, hj, rfl⟩ b (rfl | rfl) h
    · have := hinj j hj 254 (by decide) h
      omega
    · have := hinj j hj 255 (by decide) h
      omega

/-- At 255 the polynomial of a split holds the secret (42_shamir.md R191). -/
theorem interp_splitBase_255 {E : Nat → Byte} {secret : List Byte} {T : Nat} (hT : T ≤ 255) :
    interp secret.length (splitBase E secret T) 255 = secret :=
  interp_of_mem (r := (255, secret)) (nodup_splitBase hT) (by simp [splitBase]) rfl

/-- At 254 the polynomial of a split holds the digest before the padding (42_shamir.md R191). -/
theorem interp_splitBase_254 {E : Nat → Byte} {secret : List Byte} {T : Nat} (hT : T ≤ 255)
    (hlen : 4 ≤ secret.length) :
    ∃ pad, interp secret.length (splitBase E secret T) 254 = digest pad secret ++ pad := by
  let pad := entropyBytes E ((T - 2) * secret.length) (secret.length - 4)
  refine ⟨pad, interp_of_mem (r := (254, digest pad secret ++ pad)) (nodup_splitBase hT)
    (by simp [splitBase, pad]) ?_⟩
  simp only [List.length_append, length_digest, pad, entropyBytes, List.length_map,
    List.length_range]
  omega

theorem card_byte : Fintype.card Byte = 256 := by
  rw [← FinEnum.card_eq_fintypeCard, FinEnum.card_bitVec]
  rfl

/-- There are at most 255 coordinates besides a reserved one (42_shamir.md R182). -/
theorem length_le_of_nodup {xs : List Byte} (hxs : xs.Nodup) (h255 : 255 ∉ xs) :
    xs.length ≤ 255 := by
  have h := (List.nodup_cons.2 ⟨h255, hxs⟩).length_le_card
  rw [card_byte, List.length_cons] at h
  omega

/-! ### No other command draws entropy -/

theorem withRegions_draws {size : Nat} {rs : List (Nat × Nat)} {body : Result}
    (h : body.draws = 0) : (withRegions size rs body).draws = 0 := by
  rcases withRegions_cases size rs body with ⟨a, -, he⟩ | ⟨-, he⟩
  · rw [he]; rfl
  · rw [he]; exact h

/-- One check of a rule draws nothing when the rest of the rule does not. -/
theorem check_draws {p : Prop} [Decidable p] {c : ErrCode} {info : Nat} {body : Result}
    (h : body.draws = 0) : (if p then raise c info else body).draws = 0 := by
  split
  · rfl
  · exact h

theorem ite_draws {p : Prop} [Decidable p] {r r' : Result} (h : r.draws = 0) (h' : r'.draws = 0) :
    (if p then r else r').draws = 0 := by
  split
  · exact h
  · exact h'

theorem withFstParams_draws {v : Snapshot} {body : FstParams → Result}
    (h : ∀ p, (body p).draws = 0) : (withFstParams v body).draws = 0 :=
  check_draws (check_draws (check_draws (h _)))

theorem decRule_draws (size : Nat) (v : Snapshot) : (decRule size v).draws = 0 :=
  withRegions_draws (check_draws (check_draws (withRegions_draws (check_draws (by
    split <;> rfl)))))

/-- Every command but SSS.SPLIT is a rule whose outcome draws nothing: the one case split over the
commands, which stand together where their rules have one form (42_shamir.md R192). -/
theorem exec_draws {i : Instr} (hi : i ≠ .sssSplit) (s : State) :
    ∃ r, exec i s = .next (s.complete r) ∧ r.draws = 0 := by
  cases i
  case sssSplit => exact absurd rfl hi
  all_goals refine ⟨_, rfl, ?_⟩
  case nop | li | lih | mov | gf8Add | gf8Mul | gf8Pow | gf8Exp | gf10Add | gf10Mul | gf10Pow => rfl
  case gf8Inv | gf8Log | gf10Inv => exact check_draws rfl
  case ldb | ldh | stb | sth | wipe | sssDigest => exact withRegions_draws rfl
  case sssInterp =>
    exact withRegions_draws (check_draws (check_draws (check_draws (check_draws rfl))))
  case sssRecon =>
    refine withRegions_draws ?_
    iterate 6 refine check_draws ?_
    exact ite_draws rfl (ite_draws rfl rfl)
  case fstRound | fstEnc | fstDec =>
    exact withRegions_draws (check_draws (withFstParams_draws fun _ => rfl))
  case rsPolymod => exact withRegions_draws (check_draws (check_draws rfl))
  case rsCreate | rsVerify => exact withRegions_draws (check_draws rfl)
  case codecEnc =>
    refine withRegions_draws ?_
    iterate 11 refine check_draws ?_
    rfl
  case codecDec => exact decRule_draws _ _

end Sys2Proof.Machine

namespace Sys2Proof.Machine

/-! CLAIMS. The Shamir commands and the entropy they draw (42_shamir.md). -/

/-! ### Checks that pass -/

theorem interpChecks_pass {v : Snapshot} (hn : v.regNat 3 ≠ 0) (hx : v.regNat 4 ≤ 255)
    (hk : v.regNat 2 ≠ 0)
    (hdup : ((readRecords v.buf (v.regNat 1) (v.regNat 2) (v.regNat 3)).map (·.1)).Nodup) :
    ∀ c ∈ interpChecks v, c.1 = false := by
  simp only [interpChecks, List.forall_mem_cons, decide_eq_false_iff_not, not_not, not_lt]
  exact ⟨hn, hx, hk, hdup, by simp⟩

theorem splitChecks_pass {v : Snapshot} (hT : 1 ≤ v.regNat 3) (hTN : v.regNat 3 ≤ v.regNat 4)
    (hN : v.regNat 4 ≤ 255) (hdup : (v.buf.readBytes (v.regNat 5) (v.regNat 4)).Nodup)
    (hres : ∀ x ∈ v.buf.readBytes (v.regNat 5) (v.regNat 4), x ≠ 254 ∧ x ≠ 255)
    (hn : v.regNat 2 ≠ 0) (hn5 : 2 ≤ v.regNat 3 → 5 ≤ v.regNat 2) :
    ∀ c ∈ splitChecks v, c.1 = false := by
  simp only [splitChecks, List.forall_mem_cons, decide_eq_false_iff_not, not_not, not_lt, not_or]
  exact ⟨⟨hT, hTN⟩, hN, hdup, any_reservedX_eq_false hres, by omega, by simp⟩

theorem reconChecks_pass {v : Snapshot} (hT : 1 ≤ v.regNat 4) (hT255 : v.regNat 4 ≤ 255)
    (hTk : v.regNat 4 ≤ v.regNat 2) (hn : v.regNat 3 ≠ 0) (hn5 : 2 ≤ v.regNat 4 → 5 ≤ v.regNat 3)
    (hdup : ((readRecords v.buf (v.regNat 1) (v.regNat 2) (v.regNat 3)).map (·.1)).Nodup)
    (hres : ∀ r ∈ readRecords v.buf (v.regNat 1) (v.regNat 2) (v.regNat 3),
      r.1 ≠ 254 ∧ r.1 ≠ 255) :
    ∀ c ∈ reconChecks v, c.1 = false := by
  simp only [reconChecks, List.forall_mem_cons, decide_eq_false_iff_not, not_not, not_lt, not_or]
  refine ⟨⟨hT, hT255⟩, hTk, hn, by omega, hdup, ?_, by simp⟩
  simpa using hres

/-! ### The statements of 42_shamir.md -/

/-- Settles O12: the entropy port advances by the outcome's draws, which only SSS.SPLIT's success
for T >= 2 has. -/
theorem onlySplitDrawsEntropy : Obligations.OnlySplitDrawsEntropy := by
  intro i s t ht
  have hsplit : i = .sssSplit → t = s.complete (splitRule s.entropyAhead s.bufSize s.view) := by
    rintro rfl
    exact (Host.Outcome.next.inj ht).symm
  refine ⟨fun hi => ?_, fun hi hnone => ?_, fun hi hok hT => ?_⟩
  · obtain ⟨r, hexec, hdraws⟩ := exec_draws hi s
    obtain rfl := Host.Outcome.next.inj (ht.symm.trans hexec)
    exact State.entropyKept_complete hdraws
  · obtain rfl := hsplit hi
    rcases splitRule_cases s.entropyAhead s.bufSize s.view with ⟨code, info, he⟩ | he
    · rw [he]
      exact State.entropyKept_complete rfl
    · rw [he] at hnone ⊢
      have hT : s.view.regNat 3 = 1 := hnone.resolve_left (by simp)
      exact State.entropyKept_complete (by simp [Result.draws, splitEffects, hT])
  · obtain rfl := hsplit hi
    rcases splitRule_cases s.entropyAhead s.bufSize s.view with ⟨code, info, he⟩ | he
    · rw [he] at hok
      exact absurd hok (by simp)
    · have hdraws : (splitRule s.entropyAhead s.bufSize s.view).draws =
          splitDraws (s.view.regNat 2) (s.view.regNat 3) := by
        rw [he]
        exact if_neg (by omega)
      have h := s.complete_entropy (splitRule s.entropyAhead s.bufSize s.view)
      rwa [hdraws] at h

/-- Settles O39: the rule is its checks in this order, and behind them the value at O. -/
theorem interpChecksThenWritesTheValueAtX : Obligations.InterpChecksThenWritesTheValueAtX := by
  intro s hr
  refine ⟨raisesFirst_of_checked (exec_sssInterp hr), fun hwf hn hx hk hdup => ?_⟩
  have hexec := exec_sssInterp hr
  rw [checked_of_pass _ (interpChecks_pass hn hx hk hdup)] at hexec
  exact exec_completesWithBytes hwf hexec

/-- Settles O43: the word is formed of the digest's four bytes, the first most significant. -/
theorem digestGoesToRd : Obligations.DigestGoesToRd := by
  intro s rd hr
  have hexec : exec (.sssDigest rd) s =
      .next (s.complete (withRegions s.bufSize (regionsOf (.sssDigest rd) s.view) _)) := rfl
  rw [withRegions_of_regionOk hr] at hexec
  obtain ⟨t, ht, hregs⟩ := exec_completesWithRegs hexec
  exact ⟨t, _, ht, hregs, bytesOfWord_digest (length_digest _ _)⟩

/-- A split with valid operands completes with its effects (42_shamir.md R190). -/
theorem exec_sssSplit_of_pass {s : State} (hr : RegionsOk .sssSplit s)
    (hpass : ∀ c ∈ splitChecks s.view, c.1 = false) :
    exec .sssSplit s = .next (s.complete (.ok (splitEffects s.entropyAhead s.view))) := by
  rw [exec_sssSplit hr, checked_of_pass _ hpass]

/-- Settles O44: the base points of R191 are the model's, so each share is the value at its x. -/
theorem splitWritesItsRecords : Obligations.SplitWritesItsRecords := by
  intro s hwf hr n T N xs secret hT hTN hN hdup hres hn
  have hlen : secret.length = n := Memory.length_readBytes _ _ _
  refine ⟨fun hT1 => ?_, fun hT2 hn5 => ?_⟩
  · have hexec := exec_sssSplit_of_pass hr
      (splitChecks_pass hT hTN hN hdup hres hn fun h => absurd h (by omega))
    have heff : splitEffects s.entropyAhead s.view =
        { addr := s.view.regNat 6, bytes := xs.flatMap fun x => x :: secret } := by
      simp only [splitEffects, shareValue, if_pos (show s.view.regNat 3 = 1 from hT1)]
      rfl
    rw [heff] at hexec
    exact exec_completesWithBytes hwf hexec
  · intro aux pad base
    have hexec := exec_sssSplit_of_pass hr
      (splitChecks_pass hT hTN hN hdup hres hn fun _ => hn5)
    have hbase : splitBase s.entropyAhead secret T = base := by
      simp only [splitBase, hlen]
      rfl
    have heff : splitEffects s.entropyAhead s.view =
        { addr := s.view.regNat 6, bytes := xs.flatMap fun x => x :: interp n base x
          draws := splitDraws n T } := by
      have hT1 : s.view.regNat 3 ≠ 1 := by omega
      simp only [splitEffects, shareValue, if_neg hT1, Memory.length_readBytes, ← hbase]
      rfl
    rw [heff] at hexec
    exact ⟨_, hexec, s.completedOk_complete _, ⟨by simp, fun _ _ => rfl⟩,
      State.bufWritten_writeBytes hwf rfl, rfl, rfl⟩

/-- Settles O45: the rule's list of checks, at each place where the ones before it pass. -/
theorem splitReportsItsFirstFailingCheck : Obligations.SplitReportsItsFirstFailingCheck := by
  intro s hr
  have hfirst : s.RaisesFirst .sssSplit (splitChecks s.view) :=
    raisesFirst_of_checked (exec_sssSplit hr)
  refine ⟨fun hT => hfirst true _ 3 ?_, fun hT hTN => ⟨fun hN => hfirst true _ 4 ?_, fun hN =>
    ⟨fun hdup => hfirst true _ 1 ?_, fun hdup hres => hfirst true _ 2 ?_,
      fun hdup hres hn => hfirst true _ 2 ?_⟩⟩⟩
  all_goals rw [splitChecks]
  · rw [decide_eq_true hT]
    rfl
  all_goals rw [decide_eq_false (not_or.2 ⟨hT.not_gt, hTN.not_gt⟩)]
  · rw [decide_eq_true hN]
    rfl
  all_goals rw [decide_eq_false hN.not_gt]
  · rw [decide_eq_true hdup]
    rfl
  all_goals rw [decide_eq_false (not_not.2 hdup)]
  · rw [(any_reservedX _).2 hres]
    rfl
  · rw [any_reservedX_eq_false hres, decide_eq_true hn]
    rfl

/-- Settles O46: behind the checks the rule copies record 0, or compares the digest before it
writes. -/
theorem reconWritesRecordZeroOrAVerifiedSecret :
    Obligations.ReconWritesRecordZeroOrAVerifiedSecret := by
  intro s hwf hr k n T recs hT hT255 hTk hn hdup hres
  have hexec := exec_sssRecon hr
  refine ⟨fun hT1 => ?_, fun hT2 hn5 => ⟨fun hmatch => ?_, fun hmismatch => ?_⟩⟩
  · have hn5 : 2 ≤ s.view.regNat 4 → 5 ≤ s.view.regNat 3 := by omega
    rw [checked_of_pass _ (reconChecks_pass hT hT255 hTk hn hn5 hdup hres),
      reconBody_of_one hT1 (by omega)] at hexec
    exact exec_completesWithBytes hwf hexec
  · rw [checked_of_pass _ (reconChecks_pass hT hT255 hTk hn (fun _ => hn5) hdup hres),
      reconBody_of_two_le hT2 rfl, if_pos hmatch] at hexec
    exact exec_completesWithBytes hwf hexec
  · rw [checked_of_pass _ (reconChecks_pass hT hT255 hTk hn (fun _ => hn5) hdup hres),
      reconBody_of_two_le hT2 rfl, if_neg hmismatch] at hexec
    exact exec_completedErr hexec

/-- Settles O47: the rule is its checks in this order. -/
theorem reconReportsItsFirstFailingCheck : Obligations.ReconReportsItsFirstFailingCheck :=
  fun _ hr => raisesFirst_of_checked (exec_sssRecon hr)

/-- Settles O48: at least T shares lie on the polynomial of the base points and determine it, so the
values at 254 and 255 are the split's, and its digest verifies. -/
theorem reconOfSplitSharesIsTheSecret : Obligations.ReconOfSplitSharesIsTheSecret := by
  intro s E secret T xs hwf hT hTxs hlen hdup hres hk hn hTreg hr hbytes
  let base := splitBase E secret T
  have hxs : xs.length ≤ 255 := length_le_of_nodup hdup fun h => (hres _ h).2 rfl
  have hT255 : T ≤ 255 := hTxs.trans hxs
  have hrecs : readRecords s.view.buf (s.view.regNat 1) (s.view.regNat 2) (s.view.regNat 3) =
      xs.map fun x => (x, interp secret.length base x) := by
    rw [hk, hn]
    exact readRecords_eq_graph (fun _ => length_interp _ _ _) hbytes
  have hvalue (z : Byte) :
      interp secret.length (xs.map fun x => (x, interp secret.length base x)) z =
        interp secret.length base z :=
    interp_of_shares (nodup_splitBase hT255) hdup (by rwa [length_splitBase hT]) z
  obtain ⟨pad, hpad⟩ := interp_splitBase_254 (E := E) hT255 (show 4 ≤ secret.length by omega)
  obtain ⟨-, hrecon⟩ := reconWritesRecordZeroOrAVerifiedSecret s hwf hr (by omega) (by omega)
    (by omega) (by omega) (by rwa [hrecs, map_fst_graph])
    (by rw [hrecs]; simpa using fun x hx => hres x hx)
  obtain ⟨hok, -⟩ := hrecon (by omega) (by omega)
  rw [hrecs, hn, hvalue, hvalue, hpad, interp_splitBase_255 hT255] at hok
  exact hok (by rw [List.drop_left' (length_digest _ _), List.take_left' (length_digest _ _)])

end Sys2Proof.Machine

namespace Sys2Proof.Machine

/-! SUPPORT. The Feistel network's inversion, the round function by its registers, and the Feistel rules
as a list of checks and the outcome behind them (43_feistel.md R210 to R217). -/

/-! ### The network -/

theorem xorBytes_xorBytes_cancel {a b : List Byte} (h : a.length = b.length) :
    xorBytes (xorBytes a b) b = a := by
  apply List.ext_getElem (by simp [h])
  intro t h1 h2
  simp [xorBytes]

/-- A round is its own inverse once the halves are exchanged (43_feistel.md R215). -/
theorem fstStep_swap_fstStep {F : Byte → List Byte → List Byte}
    (hF : ∀ i r, (F i r).length = r.length) {lr : List Byte × List Byte}
    (hlr : lr.1.length = lr.2.length) (i : Byte) :
    fstStep F (fstStep F lr i).swap i = lr.swap :=
  Prod.ext rfl (xorBytes_xorBytes_cancel (by rw [hF, hlr]))

/-- The rounds in reverse, on exchanged halves, undo the rounds. -/
theorem foldl_fstStep_reverse {F : Byte → List Byte → List Byte}
    (hF : ∀ i r, (F i r).length = r.length) (rounds : List Byte) :
    ∀ lr : List Byte × List Byte, lr.1.length = lr.2.length →
      rounds.reverse.foldl (fstStep F) (rounds.foldl (fstStep F) lr).swap = lr.swap := by
  induction rounds with
  | nil => exact fun _ _ => rfl
  | cons i rest ih =>
    intro lr hlr
    obtain ⟨h1, h2⟩ := length_fstStep hF ⟨hlr, rfl⟩ i
    rw [List.foldl_cons, List.reverse_cons, List.foldl_append, ih _ (h1.trans h2.symm)]
    exact fstStep_swap_fstStep hF hlr i

theorem fstNetwork_append {l r : List Byte} (h : l.length = r.length)
    (F : Byte → List Byte → List Byte) (rounds : List Byte) :
    fstNetwork F rounds (l ++ r) =
      (rounds.foldl (fstStep F) (l, r)).2 ++ (rounds.foldl (fstStep F) (l, r)).1 := by
  have hhalf : (l ++ r).length / 2 = l.length := by simp; omega
  rw [fstNetwork, hhalf, List.take_left, List.drop_left]

/-- A string of even length is two halves of equal length. -/
theorem exists_halves {D : List Byte} (hD : D.length % 2 = 0) :
    ∃ l r, l.length = r.length ∧ l ++ r = D :=
  ⟨D.take (D.length / 2), D.drop (D.length / 2), by simp; omega, List.take_append_drop _ _⟩

/-- The network over the rounds in reverse undoes the network, for every round function that keeps the
length of its half (43_feistel.md R215). -/
theorem fstNetwork_reverse {F : Byte → List Byte → List Byte}
    (hF : ∀ i r, (F i r).length = r.length) (rounds : List Byte) {D : List Byte}
    (hD : D.length % 2 = 0) : fstNetwork F rounds.reverse (fstNetwork F rounds D) = D := by
  obtain ⟨l, r, hlr, rfl⟩ := exists_halves hD
  obtain ⟨h1, h2⟩ := length_fstRounds hF rounds (l, r) ⟨hlr, rfl⟩
  have hundo := foldl_fstStep_reverse hF rounds (l, r) hlr
  rw [fstNetwork_append hlr, fstNetwork_append (h2.trans h1.symm)]
  exact congrArg (fun p : List Byte × List Byte => p.2 ++ p.1) hundo

/-! ### The round function by its registers -/

/-- 43_feistel.md R212: the division by 4 is exact. -/
theorem iters_eq (e : Nat) : iters e = 2500 * 2 ^ e := by
  rw [iters, Nat.shiftLeft_eq]
  omega

/-- An identifier in range is in the salt as the register's two low bytes (43_feistel.md R210, R211). -/
theorem bytesOfHalf_identifier {w : Word} (hw : w.toNat ≤ 0x7FFF) :
    bytesOfHalf ((w.setWidth 15).setWidth 16) = [w.extractLsb' 8 8, w.extractLsb' 0 8] := by
  have hid : (w.setWidth 15).setWidth 16 = w.setWidth 16 := by
    apply BitVec.eq_of_toNat_eq
    simp only [BitVec.toNat_setWidth]
    omega
  rw [hid, bytesOfHalf, BitVec.extractLsb'_setWidth_of_le (by decide),
    BitVec.extractLsb'_setWidth_of_le (by decide)]

/-- The salt before r, as G6 and G7 give it (43_feistel.md R211). -/
def fstSalt (v : Snapshot) : List Byte :=
  if v.regNat 7 = 1 then [] else
    [0x73, 0x68, 0x61, 0x6D, 0x69, 0x72, (v.reg 6).extractLsb' 8 8, (v.reg 6).extractLsb' 0 8]

theorem saltPrefix_fstParams {v : Snapshot} (hid : v.regNat 6 ≤ 0x7FFF) :
    saltPrefix (fstParams v).id (fstParams v).ext = fstSalt v := by
  simp only [saltPrefix, fstParams, fstSalt, bytesOfHalf_identifier hid, shamirBytes, beq_iff_eq]
  rfl

/-- F(i, r) with the parameters of G3 to G7 (43_feistel.md R210 to R213). -/
theorem fstF_fstParams {v : Snapshot} (hid : v.regNat 6 ≤ 0x7FFF) (i : Byte) (half : List Byte) :
    fstF (fstParams v) i half =
      pbkdf2 (i :: v.buf.readBytes (v.regNat 3) (v.regNat 4)) (fstSalt v ++ half)
        (2500 * 2 ^ v.regNat 5) half.length := by
  rw [fstF, saltPrefix_fstParams hid, iters_eq]
  rfl

/-! ### The Feistel rules as their checks -/

/-- The checks of 43_feistel.md R214, R216 and R217 behind the regions; the rules differ in the lengths
they refuse. -/
def fstChecks (badLength : Prop) [Decidable badLength] (v : Snapshot) :
    List (Bool × ErrCode × Nat) := [
  (badLength, .invalidLength, 2),
  (15 < v.regNat 5, .invalidParameter, 5),
  (0x7FFF < v.regNat 6, .invalidIdentifier, 6),
  (1 < v.regNat 7, .invalidParameter, 7)]

theorem checked_fstChecks (badLength : Prop) [Decidable badLength] (v : Snapshot)
    (body : FstParams → Result) :
    checked (fstChecks badLength v) (body (fstParams v)) =
      if badLength then raise .invalidLength 2 else withFstParams v body := by
  simp only [fstChecks, checked, withFstParams, decide_eq_true_eq, gt_iff_lt]

theorem fstChecks_pass {badLength : Prop} [Decidable badLength] {v : Snapshot} (hL : ¬ badLength)
    (he : v.regNat 5 ≤ 15) (hid : v.regNat 6 ≤ 0x7FFF) (hext : v.regNat 7 ≤ 1) :
    ∀ c ∈ fstChecks badLength v, c.1 = false := by
  simp [fstChecks, hL, he, hid, hext]

/-- FST.ROUND refuses the empty half-block (43_feistel.md R214). -/
theorem exec_fstRound {round : Nat} {s : State} (hr : RegionsOk (.fstRound round) s) :
    exec (.fstRound round) s =
      .next (s.complete (checked (fstChecks (s.view.regNat 2 = 0) s.view)
        (okBytes (s.view.regNat 8) (fstF (fstParams s.view) (BitVec.ofNat 8 round)
          (s.view.buf.readBytes (s.view.regNat 1) (s.view.regNat 2)))))) := by
  rw [checked_fstChecks _ s.view fun p => okBytes _ (fstF p _ _),
    ← withRegions_of_regionOk hr (ite _ _ _)]
  rfl

/-- What FST.ENC and FST.DEC share, regions included: a cipher's rule refuses the empty string and
strings of odd length (43_feistel.md R216, R217). -/
theorem exec_fstCipher {i : Instr} {s : State}
    {cipher : (Byte → List Byte → List Byte) → List Byte → List Byte}
    (hrun : exec i s = runRule (fstCipherRule cipher) s) (hr : RegionsOk .fstEnc s) :
    exec i s =
      .next (s.complete (checked
        (fstChecks (s.view.regNat 2 = 0 ∨ s.view.regNat 2 % 2 = 1) s.view)
        (okBytes (s.view.regNat 8) (cipher (fstF (fstParams s.view))
          (s.view.buf.readBytes (s.view.regNat 1) (s.view.regNat 2)))))) := by
  rw [hrun, checked_fstChecks _ s.view fun p => okBytes _ (cipher (fstF p) _),
    ← withRegions_of_regionOk hr (ite _ _ _)]
  rfl

/-- A command behind the Feistel checks reports them in their order: length, e, id, ext
(43_feistel.md R214, R216). -/
theorem fstChecks_reported {i : Instr} {s : State} {badLength : Prop} [Decidable badLength]
    {body : Result}
    (h : exec i s = .next (s.complete (checked (fstChecks badLength s.view) body))) :
    (badLength → ∃ t, exec i s = .next t ∧ s.CompletedErr t .invalidLength 2) ∧
    (¬ badLength →
      (15 < s.view.regNat 5 →
        ∃ t, exec i s = .next t ∧ s.CompletedErr t .invalidParameter 5) ∧
      (s.view.regNat 5 ≤ 15 → 0x7FFF < s.view.regNat 6 →
        ∃ t, exec i s = .next t ∧ s.CompletedErr t .invalidIdentifier 6) ∧
      (s.view.regNat 5 ≤ 15 → s.view.regNat 6 ≤ 0x7FFF → 1 < s.view.regNat 7 →
        ∃ t, exec i s = .next t ∧ s.CompletedErr t .invalidParameter 7)) := by
  have hfirst := raisesFirst_of_checked h
  refine ⟨fun hL => hfirst true _ 2 ?_, fun hL => ⟨fun he => hfirst true _ 5 ?_,
    fun he hid => hfirst true _ 6 ?_, fun he hid hext => hfirst true _ 7 ?_⟩⟩
  · simp [fstChecks, hL]
  · simp [fstChecks, hL, he]
  · simp [fstChecks, hL, he, hid]
  · simp [fstChecks, hL, he, hid, hext]

/-! ### The ciphers on BUF -/

/-- The output of the network over four rounds, from the halves l and r (43_feistel.md R215). -/
def fourRounds (F : Byte → List Byte → List Byte) (l r : List Byte) (i0 i1 i2 i3 : Byte) :
    List Byte :=
  let r1 := xorBytes l (F i0 r)
  let r2 := xorBytes r (F i1 r1)
  let r3 := xorBytes r1 (F i2 r2)
  let r4 := xorBytes r2 (F i3 r3)
  r4 ++ r3

theorem fstNetwork_readBytes (F : Byte → List Byte → List Byte) (i0 i1 i2 i3 : Byte) (m : Memory)
    (a : Nat) {L : Nat} (hL : L % 2 = 0) :
    fstNetwork F [i0, i1, i2, i3] (m.readBytes a L) =
      fourRounds F (m.readBytes a (L / 2)) (m.readBytes (a + L / 2) (L / 2)) i0 i1 i2 i3 := by
  have hsplit : m.readBytes a L = m.readBytes a (L / 2) ++ m.readBytes (a + L / 2) (L / 2) := by
    rw [← Memory.readBytes_add]
    congr 1
    omega
  rw [hsplit, fstNetwork_append (by simp)]
  rfl

/-- A command that runs the network over four rounds, on valid operands, completes with their output
(43_feistel.md R216, R217). -/
theorem exec_fstNetwork {i : Instr} {s : State} {i0 i1 i2 i3 : Byte}
    (hrun : exec i s = runRule (fstCipherRule fun F => fstNetwork F [i0, i1, i2, i3]) s)
    (hr : RegionsOk .fstEnc s) (hwf : s.buf.wf = true)
    (hL : s.view.regNat 2 ≠ 0) (heven : s.view.regNat 2 % 2 = 0) (he : s.view.regNat 5 ≤ 15)
    (hid : s.view.regNat 6 ≤ 0x7FFF) (hext : s.view.regNat 7 ≤ 1) :
    ∃ t, exec i s = .next t ∧ s.CompletesWith t [] (s.view.regNat 8)
      (fourRounds (fstF (fstParams s.view))
        (s.view.buf.readBytes (s.view.regNat 1) (s.view.regNat 2 / 2))
        (s.view.buf.readBytes (s.view.regNat 1 + s.view.regNat 2 / 2) (s.view.regNat 2 / 2))
        i0 i1 i2 i3) := by
  have hlen : ¬ (s.view.regNat 2 = 0 ∨ s.view.regNat 2 % 2 = 1) := by omega
  have hexec := exec_fstCipher hrun hr
  rw [checked_of_pass _ (fstChecks_pass hlen he hid hext),
    fstNetwork_readBytes _ _ _ _ _ _ _ heven] at hexec
  exact exec_completesWithBytes hwf hexec

end Sys2Proof.Machine

namespace Sys2Proof.Machine

/-! CLAIMS. The Feistel commands and the cipher's inversion (43_feistel.md). -/

/-- Settles O49: behind the checks stands F of the half-block, and its parameters are the registers'. -/
theorem fstRoundWritesTheKeystream : Obligations.FstRoundWritesTheKeystream := by
  intro s i hwf hr hm he hid hext
  have hexec := exec_fstRound hr
  rw [checked_of_pass _ (fstChecks_pass hm he hid hext), BitVec.ofNat_toNat, BitVec.setWidth_eq,
    fstF_fstParams hid, Memory.length_readBytes] at hexec
  exact exec_completesWithBytes hwf hexec

/-- Settles O50: both commands run the network on the two halves of the data, each over its own order
of the rounds. -/
theorem fstCiphersRunTheFourRounds : Obligations.FstCiphersRunTheFourRounds := by
  intro s hwf hL heven he hid hext h l r salt F rounds
  have hF : fstF (fstParams s.view) = F := funext₂ (fstF_fstParams hid)
  have hcompletes {i : Instr} {i0 i1 i2 i3 : Byte}
      (hrun : exec i s = runRule (fstCipherRule fun G => fstNetwork G [i0, i1, i2, i3]) s)
      (hr : RegionsOk .fstEnc s) :
      ∃ t, exec i s = .next t ∧ s.CompletesWith t [] (s.view.regNat 8) (rounds i0 i1 i2 i3) := by
    have hnet := exec_fstNetwork hrun hr hwf hL heven he hid hext
    rwa [hF] at hnet
  exact ⟨hcompletes rfl, hcompletes rfl⟩

/-- Settles O51: decryption is the network over encryption's rounds in reverse. -/
theorem feistelDecUndoesEnc : Obligations.FeistelDecUndoesEnc :=
  fun p _ hD => fstNetwork_reverse (length_fstF p) [0, 1, 2, 3] hD

/-- Settles O52: each of the three rules is its length check and then the checks they share. -/
theorem fstParametersAreCheckedInOrder : Obligations.FstParametersAreCheckedInOrder := by
  rintro s i (rfl | rfl | ⟨round, rfl⟩) hr
  · obtain ⟨hlength, hparams⟩ := fstChecks_reported (exec_fstCipher (i := .fstEnc) rfl hr)
    exact ⟨fun h => hlength (h.imp_right And.left), fun h heven => hparams (not_or.2 ⟨h, by simpa using heven⟩)⟩
  · obtain ⟨hlength, hparams⟩ := fstChecks_reported (exec_fstCipher (i := .fstDec) rfl hr)
    exact ⟨fun h => hlength (h.imp_right And.left), fun h heven => hparams (not_or.2 ⟨h, by simpa using heven⟩)⟩
  · obtain ⟨hlength, hparams⟩ := fstChecks_reported (exec_fstRound hr)
    exact ⟨fun h => hlength (by simpa using h), fun h _ => hparams h⟩

end Sys2Proof.Machine

namespace Sys2Proof.Machine

/-! SUPPORT. The step of RS1024 is linear over XOR and loses no difference, since what it folds into the
low word is a product by a unit of GF(2^10) (44_rs1024.md R230, R231, R239). -/

/-! ### The gated constants -/

/-- The gates are linear: what opens one twice leaves no trace. -/
theorem rsGate_xor (gens : List (BitVec 30)) : ∀ (b b' : Word10) (i : Nat) (c c' : BitVec 30),
    rsGate (b ^^^ b') i gens (c ^^^ c') = rsGate b i gens c ^^^ rsGate b' i gens c' := by
  induction gens with
  | nil => intros; rfl
  | cons gen rest ih =>
    intro b b' i c c'
    have hhead : (if (b ^^^ b').getLsbD i then c ^^^ c' ^^^ gen else c ^^^ c') =
        (if b.getLsbD i then c ^^^ gen else c) ^^^ (if b'.getLsbD i then c' ^^^ gen else c') := by
      have htwice : c ^^^ gen ^^^ (c' ^^^ gen) = c ^^^ c' := by
        rw [BitVec.xor_comm c', BitVec.xor_assoc, ← BitVec.xor_assoc gen, BitVec.xor_self,
          BitVec.zero_xor]
      rw [BitVec.getLsbD_xor]
      cases b.getLsbD i <;> cases b'.getLsbD i
      · rfl
      · exact BitVec.xor_assoc ..
      · change c ^^^ c' ^^^ gen = c ^^^ gen ^^^ c'
        ac_rfl
      · exact htwice.symm
    rw [rsGate, hhead, ih, ← rsGate, ← rsGate]

theorem rsGate_zero (gens : List (BitVec 30)) : ∀ (i : Nat) (c : BitVec 30),
    rsGate 0#10 i gens c = c := by
  induction gens with
  | nil => intros; rfl
  | cons gen rest ih => intro i c; simpa [rsGate] using ih (i + 1) c

/-- The gates' XOR is apart from what it is folded into. -/
theorem rsGate_eq_xor (b : Word10) (i : Nat) (gens : List (BitVec 30)) (c : BitVec 30) :
    rsGate b i gens c = rsGate b i gens 0 ^^^ c := by
  simpa [rsGate_zero] using rsGate_xor gens b 0 i 0 c

theorem rsGate_left_inj (b : Word10) (i : Nat) (gens : List (BitVec 30)) {c c' : BitVec 30} :
    rsGate b i gens c = rsGate b i gens c' ↔ c = c' := by
  rw [rsGate_eq_xor b i gens c, rsGate_eq_xor b i gens c', BitVec.xor_right_inj]

/-- Constants whose low words are the doublings of `a` add to the low word the doublings that b
selects. -/
theorem setWidth_rsGate (a b d : Word10) : ∀ (gens : List (BitVec 30)) (i : Nat) (c : BitVec 30),
    gens.map (·.setWidth 10) = List.iterate gf10Double (gf10Double^[i] a) gens.length →
    c.setWidth 10 = d ^^^ doublingSum gf10Double a b i →
    (rsGate b i gens c).setWidth 10 = d ^^^ doublingSum gf10Double a b (i + gens.length) := by
  intro gens
  induction gens with
  | nil => intro i c _ hc; exact hc
  | cons gen rest ih =>
    intro i c hgens hc
    rw [List.length_cons, List.iterate, List.map_cons, List.cons.injEq,
      ← Function.iterate_succ_apply' gf10Double] at hgens
    obtain ⟨hgen, hrest⟩ := hgens
    have hword : (if b.getLsbD i then c ^^^ gen else c).setWidth 10 =
        d ^^^ doublingSum gf10Double a b (i + 1) := by
      rw [doublingSum, ← BitVec.xor_assoc, ← hc, ← hgen]
      split <;> simp
    rw [rsGate, ih (i + 1) _ hrest hword, List.length_cons, Nat.add_right_comm, Nat.add_assoc]

/-- The constants' low words are 0x040 times the powers of x (44_rs1024.md R231). -/
theorem rsGen_map_setWidth : rsGen.map (·.setWidth 10) = List.iterate gf10Double 0x040 rsGen.length := by
  decide

/-- The step adds 0x040 times its top word to its low word. -/
theorem setWidth_rsGate_rsGen (b : Word10) (c : BitVec 30) :
    (rsGate b 0 rsGen c).setWidth 10 = c.setWidth 10 ^^^ gf10Mul 0x040 b := by
  rw [gf10Mul_eq_doublingSum]
  exact setWidth_rsGate 0x040 b _ rsGen 0 c rsGen_map_setWidth BitVec.xor_zero.symm

theorem gf10Mul_left_cancel {a b c : Word10} (ha : a ≠ 0) (h : gf10Mul a b = gf10Mul a c) :
    b = c := by
  have hring := gf10Mul_isRingProduct
  have hinv : gf10Mul (gf10Inv a) a = 1 := by rw [hring.comm, gf10Mul_gf10Inv ha]
  calc b = gf10Mul (gf10Inv a) (gf10Mul a b) := by rw [← hring.assoc, hinv, hring.one_left]
    _ = gf10Mul (gf10Inv a) (gf10Mul a c) := by rw [h]
    _ = c := by rw [← hring.assoc, hinv, hring.one_left]

/-! ### One step -/

/-- The accumulator as its top word, which opens the gates, and the words that stay. -/
theorem exists_topWord (c : BitVec 30) : ∃ (top : Word10) (low : BitVec 20), c = top ++ low :=
  ⟨c.extractLsb' 20 10, c.extractLsb' 0 20, by
    rw [BitVec.extractLsb'_append_extractLsb'_eq_extractLsb' (by decide),
      BitVec.extractLsb'_eq_self]⟩

/-- polymod_step on an accumulator given by its top word (44_rs1024.md R230). -/
theorem polymodStep_append (top : Word10) (low : BitVec 20) (v : Word10) :
    polymodStep (top ++ low) v = rsGate top 0 rsGen (low ++ v) := by
  have htop : (top ++ low).extractLsb' 20 10 = top := BitVec.extractLsb'_append_eq_left
  have hmask : (top ++ low) &&& 0xFFFFF#30 = 0#10 ++ low := by
    rw [show 0xFFFFF#30 = 0#10 ++ BitVec.allOnes 20 by decide, BitVec.and_append, BitVec.and_zero,
      BitVec.and_allOnes]
  have hshift : (0#10 ++ low) <<< 10 = low ++ 0#10 := by
    rw [BitVec.shiftLeft_eq_concat_of_lt (by decide), BitVec.extractLsb'_append_eq_right]
    rfl
  have hword : v.setWidth 30 = 0#20 ++ v := BitVec.setWidth_eq_append (by decide)
  have hbody : ((top ++ low) &&& 0xFFFFF#30) <<< 10 ^^^ v.setWidth 30 = low ++ v := by
    rw [hmask, hshift, hword, BitVec.xor_append, BitVec.xor_zero, BitVec.zero_xor]
  exact congrArg₂ (rsGate · 0 rsGen ·) htop hbody

/-- The step is linear: the difference of two steps is a step on the differences. -/
theorem polymodStep_xor (c c' : BitVec 30) (v v' : Word10) :
    polymodStep (c ^^^ c') (v ^^^ v') = polymodStep c v ^^^ polymodStep c' v' := by
  obtain ⟨top, low, rfl⟩ := exists_topWord c
  obtain ⟨top', low', rfl⟩ := exists_topWord c'
  rw [BitVec.xor_append, polymodStep_append, ← BitVec.xor_append, rsGate_xor, polymodStep_append,
    polymodStep_append]

/-- The step loses no difference of accumulators: the top word comes back from the low word of the
result, and the rest is only moved. -/
theorem polymodStep_left_injective (v : Word10) : Function.Injective (polymodStep · v) := by
  intro c c' h
  obtain ⟨top, low, rfl⟩ := exists_topWord c
  obtain ⟨top', low', rfl⟩ := exists_topWord c'
  simp only [polymodStep_append] at h
  have hword := congrArg (BitVec.setWidth 10) h
  simp only [setWidth_rsGate_rsGen, BitVec.setWidth_append_eq_right, BitVec.xor_right_inj] at hword
  obtain rfl := gf10Mul_left_cancel (by decide) hword
  rw [(BitVec.append_left_inj v).1 ((rsGate_left_inj ..).1 h)]

/-- The step loses no difference of words. -/
theorem polymodStep_right_injective (c : BitVec 30) : Function.Injective (polymodStep c) := by
  intro v v' h
  obtain ⟨top, low, rfl⟩ := exists_topWord c
  rw [polymodStep_append, polymodStep_append, rsGate_left_inj] at h
  exact (BitVec.append_right_inj low).1 h

/-! ### A run -/

theorem polymod_append (us vs : List Word10) (c : BitVec 30) :
    polymod (us ++ vs) c = polymod vs (polymod us c) := List.foldl_append

theorem polymod_injective (vs : List Word10) : Function.Injective (polymod vs) := by
  induction vs with
  | nil => exact fun _ _ h => h
  | cons v vs ih => exact fun _ _ h => polymodStep_left_injective v (ih h)

/-- A run is the run on zeros from one part of the accumulator and the run on the words from the
other. -/
theorem polymod_xor (vs : List Word10) : ∀ c c' : BitVec 30,
    polymod vs (c ^^^ c') = polymod (vs.map fun _ => 0#10) c ^^^ polymod vs c' := by
  induction vs with
  | nil => intros; rfl
  | cons v vs ih =>
    intro c c'
    have hstep : polymodStep (c ^^^ c') v = polymodStep c 0#10 ^^^ polymodStep c' v := by
      rw [← polymodStep_xor, BitVec.zero_xor]
    exact (congrArg (polymod vs) hstep).trans (ih _ _)

/-- No gate opens while the top word is 0: the words move up. -/
theorem polymodStep_zero_append (low : BitVec 20) (v : Word10) :
    polymodStep (0#10 ++ low) v = low ++ v := by
  rw [polymodStep_append, rsGate_zero]

/-- Three words fill the empty accumulator. -/
theorem polymod_three_words (u v w : Word10) : polymod [u, v, w] 0#30 = u ++ v ++ w := by
  have hfirst : polymodStep 0#30 u = 0#10 ++ (0#10 ++ u) :=
    (polymodStep_zero_append (0#10 ++ 0#10) u).trans BitVec.append_assoc
  have hsecond : polymodStep (0#10 ++ (0#10 ++ u)) v = 0#10 ++ (u ++ v) :=
    (polymodStep_zero_append (0#10 ++ u) v).trans BitVec.append_assoc
  calc polymod [u, v, w] 0#30 = polymodStep (polymodStep (polymodStep 0#30 u) v) w := rfl
    _ = u ++ v ++ w := by rw [hfirst, hsecond, polymodStep_zero_append]

theorem polymod_checksumWords_zero (k : BitVec 30) : polymod (checksumWords k) 0#30 = k := by
  rw [checksumWords, polymod_three_words,
    BitVec.extractLsb'_append_extractLsb'_eq_extractLsb' (by decide),
    BitVec.extractLsb'_append_extractLsb'_eq_extractLsb' (by decide), BitVec.extractLsb'_eq_self]

/-- Checksum words in place of the three zeros add the checksum to the accumulator. -/
theorem polymod_checksumWords (k c : BitVec 30) :
    polymod (checksumWords k) c = polymod [0, 0, 0] c ^^^ k := by
  have h := polymod_xor (checksumWords k) c 0#30
  rwa [BitVec.xor_zero, polymod_checksumWords_zero] at h

end Sys2Proof.Machine

namespace Sys2Proof.Machine

/-! SUPPORT. The RS1024 rules as their checks and the outcome behind them (44_rs1024.md R234, R236 to
R238). -/

/-! ### Completion with registers and bytes -/

/-- The last write of a list stands, so each does where no register is listed twice. -/
theorem Regs.read_writeAll_of_mem {ws : List (Reg × Word)} (hws : (ws.map (·.1)).Nodup) :
    ∀ (g : Regs), ∀ w ∈ ws, (g.writeAll ws).read w.1 = w.2 := by
  induction ws with
  | nil => simp
  | cons w rest ih =>
    intro g
    obtain ⟨hw, hrest⟩ := List.nodup_cons.1 hws
    refine List.forall_mem_cons.2 ⟨?_, ih hrest (g.write w.1 w.2)⟩
    exact (Regs.read_writeAll_other rest (g.write w.1 w.2) w.1 hw).trans (Regs.read_write_same ..)

/-- A command whose rule answers registers, each listed once, and one byte string completes with them
and changes nothing else (60_exceptions.md R305). -/
theorem exec_completesWith {i : Instr} {s : State} {regs : List (Reg × Word)} {a : Nat}
    {bs : List Byte} (hwf : s.buf.wf = true) (hregs : (regs.map (·.1)).Nodup)
    (h : exec i s = .next (s.complete (.ok { regs := regs, addr := a, bytes := bs }))) :
    ∃ t, exec i s = .next t ∧ s.CompletesWith t regs a bs :=
  ⟨_, h, s.completedOk_complete _,
    ⟨Regs.read_writeAll_of_mem hregs s.g, Regs.read_writeAll_other regs s.g⟩,
    State.bufWritten_writeBytes hwf rfl, ⟨rfl, rfl⟩⟩

/-! ### The rules as their checks -/

/-- The halfwords of the sequence that the RS commands read (44_rs1024.md R234). -/
def rsHalves (v : Snapshot) : List Half := readHalves v.buf (v.regNat 1) (v.regNat 2)

/-- The word check that the RS commands share, before a command's own checks (44_rs1024.md R234). -/
def rsChecks (v : Snapshot) (own : List (Bool × ErrCode × Nat)) : List (Bool × ErrCode × Nat) :=
  (anyAbove1023 (rsHalves v), .invalidParameter, 1) :: own

/-- RS.POLYMOD's own check, of the initial value (44_rs1024.md R236). -/
def initialValueChecks (v : Snapshot) : List (Bool × ErrCode × Nat) :=
  [(2 ^ 30 ≤ v.regNat 3, .invalidParameter, 3)]

theorem exec_rsPolymod {rd : Reg} {s : State} (hr : RegionsOk (.rsPolymod rd) s) :
    exec (.rsPolymod rd) s =
      .next (s.complete (checked (rsChecks s.view (initialValueChecks s.view)) (okReg rd
        ((polymod (words10 (rsHalves s.view)) ((s.view.reg 3).setWidth 30)).setWidth 32)))) := by
  rw [← withRegions_of_regionOk hr (checked _ _)]
  simp only [rsChecks, initialValueChecks, checked, decide_eq_true_eq]
  rfl

theorem exec_rsCreate {rd : Reg} {ext : Bool} {s : State} (hr : RegionsOk (.rsCreate rd ext) s) :
    exec (.rsCreate rd ext) s =
      .next (s.complete (checked (rsChecks s.view []) (.ok
        { regs := [(rd, (rsChecksum ext (words10 (rsHalves s.view))).setWidth 32)]
          addr := s.view.regNat 3
          bytes := bytesOfWords (checksumWords (rsChecksum ext (words10 (rsHalves s.view)))) }))) := by
  rw [← withRegions_of_regionOk hr (checked _ _)]
  rfl

theorem exec_rsVerify {rd : Reg} {ext : Bool} {s : State} (hr : RegionsOk (.rsVerify rd ext) s) :
    exec (.rsVerify rd ext) s =
      .next (s.complete (checked (rsChecks s.view []) (okReg rd
        (if rsValid ext (words10 (rsHalves s.view)) then 1 else 0)))) := by
  rw [← withRegions_of_regionOk hr (checked _ _)]
  rfl

theorem anyAbove1023_iff (hs : List Half) : anyAbove1023 hs = true ↔ ∃ h ∈ hs, 1023 < h.toNat := by
  simp [anyAbove1023]

/-- Words up to 1023 leave a command its own checks. -/
theorem checked_rsChecks {v : Snapshot} (h : ∀ x ∈ rsHalves v, x.toNat ≤ 1023)
    (own : List (Bool × ErrCode × Nat)) (body : Result) :
    checked (rsChecks v own) body = checked own body := by
  have hnone : ¬ anyAbove1023 (rsHalves v) = true := by simpa [anyAbove1023_iff] using h
  rw [rsChecks, checked, if_neg hnone]

/-- A word above 1023 is reported before a command's own checks (44_rs1024.md R234). -/
theorem rsChecks_reported {i : Instr} {s : State} {own : List (Bool × ErrCode × Nat)}
    {body : Result} (h : exec i s = .next (s.complete (checked (rsChecks s.view own) body)))
    (habove : ∃ x ∈ rsHalves s.view, 1023 < x.toNat) :
    ∃ t, exec i s = .next t ∧ s.CompletedErr t .invalidParameter 1 :=
  raisesFirst_of_checked h true _ 1 (by simp [rsChecks, (anyAbove1023_iff _).2 habove])

end Sys2Proof.Machine

namespace Sys2Proof.Machine

/-! CLAIMS. The RS commands and what their checksum detects (44_rs1024.md). -/

/-- Settles O53: behind the word check stand the results of R236 to R238. -/
theorem rsCommandsWriteTheirResults : Obligations.RsCommandsWriteTheirResults := by
  intro s rd ext hwf hs ws hwords
  refine ⟨fun hr hinit => ?_, fun hr => ?_, fun hr => ?_⟩
  · have hexec := exec_rsPolymod hr
    rw [checked_rsChecks hwords,
      checked_of_pass _ (by simpa [initialValueChecks] using hinit)] at hexec
    exact exec_completesWithRegs hexec
  · have hexec := exec_rsCreate hr
    rw [checked_rsChecks hwords] at hexec
    exact exec_completesWith hwf (List.nodup_singleton rd) hexec
  · have hexec := exec_rsVerify hr
    rw [checked_rsChecks hwords] at hexec
    simp only [rsValid, beq_iff_eq] at hexec
    exact exec_completesWithRegs hexec

/-- Settles O54: the word check stands first in each rule, and RS.POLYMOD's own check behind it. -/
theorem rsRejectsWordsAbove1023 : Obligations.RsRejectsWordsAbove1023 := by
  intro s rd ext hs
  refine ⟨fun habove i hi hr => ?_, fun hwords hr hinit => ?_⟩
  · obtain rfl | rfl | rfl := hi
    · exact rsChecks_reported (exec_rsPolymod hr) habove
    · exact rsChecks_reported (exec_rsCreate hr) habove
    · exact rsChecks_reported (exec_rsVerify hr) habove
  · have hexec := exec_rsPolymod hr
    rw [checked_rsChecks hwords] at hexec
    exact raisesFirst_of_checked hexec true _ 3 (by simpa [initialValueChecks] using hinit)

/-- Settles O55: the checksum is the run on three zeros less 1, and adding it leaves 1. -/
theorem createdChecksumVerifies : Obligations.CreatedChecksumVerifies := by
  intro ext ws
  have hrun : polymod (cust ext ++ (ws ++ checksumWords (rsChecksum ext ws))) 1 = 1 := by
    rw [← List.append_assoc, polymod_append, polymod_checksumWords, ← polymod_append, rsChecksum,
      ← BitVec.xor_assoc, BitVec.xor_self]
    exact BitVec.zero_xor
  exact beq_iff_eq.2 hrun

/-- Settles O56: equal results go back to equal words, step by step. -/
theorem changedWordFailsVerification : Obligations.ChangedWordFailsVerification := by
  intro ext before after w w' hne hvalid
  simp only [rsValid, beq_iff_eq, beq_eq_false_iff_ne, polymod_append] at hvalid ⊢
  intro hvalid'
  have hstep := polymod_injective after (hvalid.trans hvalid'.symm)
  exact hne (polymodStep_right_injective _ hstep)

end Sys2Proof.Machine

namespace Sys2Proof.Machine

/-! SUPPORT. Big-endian digits of w bits each, which bytes and 10-bit words both are, and the fields of a
share in its words (45_codec.md R251, R252, R258). -/

/-! ### Digits -/

/-- The number with the given digits of w bits, most significant first: `natOfBytes` at w = 8,
`natOfWords` at w = 10. -/
def natOfDigits {w : Nat} (ds : List (BitVec w)) : Nat :=
  ds.foldl (fun acc d => acc * 2 ^ w + d.toNat) 0

/-- The low n digits of v, most significant first: `bytesOfNat` at w = 8, `payloadWords` at w = 10. -/
def digitsOfNat (w n v : Nat) : List (BitVec w) :=
  (List.range n).map fun j => BitVec.ofNat w (v >>> (w * (n - 1 - j)))

theorem natOfBytes_eq_natOfDigits (bs : List Byte) : natOfBytes bs = natOfDigits bs := rfl

theorem natOfWords_eq_natOfDigits (ws : List Word10) : natOfWords ws = natOfDigits ws := rfl

theorem bytesOfNat_eq_digitsOfNat (n v : Nat) : bytesOfNat n v = digitsOfNat 8 n v := rfl

theorem payloadWords_eq_digitsOfNat (value : List Byte) :
    payloadWords value = digitsOfNat 10 (payloadCount value.length) (natOfBytes value) := rfl

theorem natOfDigits_concat {w : Nat} (ds : List (BitVec w)) (d : BitVec w) :
    natOfDigits (ds ++ [d]) = natOfDigits ds * 2 ^ w + d.toNat := by
  simp [natOfDigits]

theorem digitsOfNat_succ (w n v : Nat) :
    digitsOfNat w (n + 1) v = digitsOfNat w n (v >>> w) ++ [BitVec.ofNat w v] := by
  have hhead : ∀ j < n, v >>> (w * (n - j)) = v >>> w >>> (w * (n - 1 - j)) := fun j hj => by
    rw [← Nat.shiftRight_add, Nat.add_comm, ← Nat.mul_succ]
    congr 2
    omega
  simpa [digitsOfNat, List.range_succ] using fun j hj => congrArg (BitVec.ofNat w) (hhead j hj)

theorem length_digitsOfNat (w n v : Nat) : (digitsOfNat w n v).length = n := by simp [digitsOfNat]

theorem natOfDigits_lt {w : Nat} (ds : List (BitVec w)) : natOfDigits ds < 2 ^ (w * ds.length) := by
  induction ds using List.reverseRecOn with
  | nil => simp [natOfDigits]
  | append_singleton ds d ih =>
    calc natOfDigits (ds ++ [d]) < (natOfDigits ds + 1) * 2 ^ w := by
          rw [natOfDigits_concat, Nat.succ_mul]; exact Nat.add_lt_add_left d.isLt _
      _ ≤ 2 ^ (w * ds.length) * 2 ^ w := Nat.mul_le_mul_right _ ih
      _ = 2 ^ (w * (ds ++ [d]).length) := by simp [← Nat.pow_add, Nat.mul_add]

/-- A number that fits in n digits is the number of its n digits. -/
theorem natOfDigits_digitsOfNat {w n : Nat} : ∀ {v : Nat}, v < 2 ^ (w * n) →
    natOfDigits (digitsOfNat w n v) = v := by
  induction n with
  | zero => intro v hv; exact (Nat.lt_one_iff.1 hv).symm
  | succ n ih =>
    intro v hv
    have hhead : v >>> w < 2 ^ (w * n) := by
      rw [Nat.shiftRight_eq_div_pow]
      exact Nat.div_lt_of_lt_mul (by rwa [← Nat.pow_add, Nat.add_comm])
    rw [digitsOfNat_succ, natOfDigits_concat, ih hhead, Nat.shiftRight_eq_div_pow,
      BitVec.toNat_ofNat, Nat.div_add_mod']

/-- The digits of a number given by its digits are these. -/
theorem digitsOfNat_natOfDigits {w : Nat} (ds : List (BitVec w)) :
    digitsOfNat w ds.length (natOfDigits ds) = ds := by
  induction ds using List.reverseRecOn with
  | nil => rfl
  | append_singleton ds d ih =>
    have hhead : (natOfDigits ds * 2 ^ w + d.toNat) >>> w = natOfDigits ds := by
      rw [Nat.shiftRight_eq_div_pow, Nat.mul_comm, Nat.mul_add_div (Nat.two_pow_pos w),
        Nat.div_eq_of_lt d.isLt, Nat.add_zero]
    have hlast : BitVec.ofNat w (natOfDigits ds * 2 ^ w + d.toNat) = d := by
      apply BitVec.eq_of_toNat_eq
      rw [BitVec.toNat_ofNat, Nat.mul_add_mod_self_right, Nat.mod_eq_of_lt d.isLt]
    rw [List.length_append, List.length_singleton, natOfDigits_concat, digitsOfNat_succ, hhead,
      hlast, ih]

/-! ### The payload -/

theorem natOfBytes_lt (bs : List Byte) : natOfBytes bs < 2 ^ (8 * bs.length) := by
  rw [natOfBytes_eq_natOfDigits]
  exact natOfDigits_lt bs

/-- The payload has room for the value (45_codec.md R252). -/
theorem natOfBytes_lt_payload (value : List Byte) :
    natOfBytes value < 2 ^ (10 * payloadCount value.length) :=
  (natOfBytes_lt value).trans_le
    (Nat.pow_le_pow_right (by decide) (by rw [payloadCount]; omega))

theorem natOfWords_payloadWords (value : List Byte) :
    natOfWords (payloadWords value) = natOfBytes value := by
  rw [payloadWords_eq_digitsOfNat, natOfWords_eq_natOfDigits,
    natOfDigits_digitsOfNat (natOfBytes_lt_payload value)]

theorem length_payloadWords (value : List Byte) :
    (payloadWords value).length = payloadCount value.length := by
  rw [payloadWords_eq_digitsOfNat, length_digitsOfNat]

theorem bytesOfNat_natOfBytes (bs : List Byte) : bytesOfNat bs.length (natOfBytes bs) = bs := by
  rw [bytesOfNat_eq_digitsOfNat, natOfBytes_eq_natOfDigits, digitsOfNat_natOfDigits]

/-! ### The header -/

theorem toNat_append_bits {m n : Nat} (x : BitVec m) (y : BitVec n) :
    (x ++ y).toNat = x.toNat * 2 ^ n + y.toNat := by
  rw [BitVec.toNat_append, ← Nat.shiftLeft_add_eq_or_of_lt y.isLt, Nat.shiftLeft_eq]

theorem toNat_countField {n : Nat} (h : n ≤ 16) : (countField n).toNat = n - 1 := by
  rw [countField, BitVec.toNat_ofNat]
  omega

theorem toNat_headerIe (sh : Share) : (headerIe sh).toNat =
    sh.id.toNat * 2 ^ 5 + (if sh.ext then 1 else 0) * 2 ^ 4 + sh.e.toNat := by
  simp only [headerIe, toNat_append_bits, BitVec.toNat_ofBool, Bool.toNat]
  cases sh.ext <;> simp <;> omega

theorem toNat_headerGm {sh : Share} (hgt : sh.gt ≤ 16) (hgc : sh.gc ≤ 16) (hmt : sh.mt ≤ 16) :
    (headerGm sh).toNat = sh.gi.toNat * 2 ^ 16 + (sh.gt - 1) * 2 ^ 12 + (sh.gc - 1) * 2 ^ 8 +
      sh.mi.toNat * 2 ^ 4 + (sh.mt - 1) := by
  simp only [headerGm, toNat_append_bits, toNat_countField hgt, toNat_countField hgc,
    toNat_countField hmt]
  omega

/-- A 20-bit field is its two words one after another (45_codec.md R251). -/
theorem wordPair_append (x : BitVec 20) : x.extractLsb' 10 10 ++ x.extractLsb' 0 10 = x := by
  rw [BitVec.extractLsb'_append_extractLsb'_eq_extractLsb' (by decide), BitVec.extractLsb'_eq_self]

theorem toNat_wordPair (x : BitVec 20) :
    (x.extractLsb' 10 10).toNat * 1024 + (x.extractLsb' 0 10).toNat = x.toNat := by
  have h := toNat_append_bits (x.extractLsb' 10 10) (x.extractLsb' 0 10)
  rw [wordPair_append] at h
  exact h.symm

theorem headerIe_fields (sh : Share) :
    (headerIe sh).extractLsb' 5 15 = sh.id ∧
      ((headerIe sh).extractLsb' 0 10).getLsbD 4 = sh.ext ∧
      (headerIe sh).extractLsb' 0 4 = sh.e := by
  refine ⟨?_, ?_, BitVec.extractLsb'_append_eq_right⟩
  · rw [headerIe, BitVec.extractLsb'_append_eq_of_le (by decide),
      BitVec.extractLsb'_append_eq_left]
  · rw [BitVec.getLsbD_extractLsb', headerIe, BitVec.getLsbD_append, BitVec.getLsbD_append]
    simp

theorem headerGm_fields (sh : Share) :
    (headerGm sh).extractLsb' 16 4 = sh.gi ∧
      (headerGm sh).extractLsb' 12 4 = countField sh.gt ∧
      (headerGm sh).extractLsb' 8 4 = countField sh.gc ∧
      (headerGm sh).extractLsb' 4 4 = sh.mi ∧
      (headerGm sh).extractLsb' 0 4 = countField sh.mt := by
  refine ⟨?_, ?_, ?_, ?_, BitVec.extractLsb'_append_eq_right⟩ <;>
    rw [headerGm, BitVec.extractLsb'_append_eq_of_le (by decide)]
  · rw [BitVec.extractLsb'_append_eq_of_le (by decide),
      BitVec.extractLsb'_append_eq_of_le (by decide), BitVec.extractLsb'_append_eq_left]
  · rw [BitVec.extractLsb'_append_eq_of_le (by decide),
      BitVec.extractLsb'_append_eq_of_le (by decide)]
    exact BitVec.extractLsb'_append_eq_right
  · rw [BitVec.extractLsb'_append_eq_of_le (by decide)]
    exact BitVec.extractLsb'_append_eq_right
  · exact BitVec.extractLsb'_append_eq_right

end Sys2Proof.Machine

namespace Sys2Proof.Machine

/-! SUPPORT. The codec rules as their checks and the outcome behind them (45_codec.md R255 to R258). -/

/-! ### CODEC.ENC -/

/-- The checks of 45_codec.md R255. -/
def encChecks (v : Snapshot) : List (Bool × ErrCode × Nat) := [
  (0x7FFF < v.regNat 1, .invalidIdentifier, 1),
  (1 < v.regNat 2, .invalidParameter, 2),
  (15 < v.regNat 3, .invalidParameter, 3),
  (15 < v.regNat 4, .invalidParameter, 4),
  (v.regNat 5 < 1 ∨ 16 < v.regNat 5, .invalidThreshold, 5),
  (v.regNat 6 < 1 ∨ 16 < v.regNat 6, .invalidGroupConfig, 6),
  (15 < v.regNat 7, .invalidParameter, 7),
  (v.regNat 8 < 1 ∨ 16 < v.regNat 8, .invalidThreshold, 8),
  (v.regNat 6 < v.regNat 5, .invalidGroupConfig, 5),
  (v.regNat 6 ≤ v.regNat 4, .invalidGroupConfig, 4),
  (v.regNat 10 < 16 ∨ v.regNat 10 % 2 = 1, .invalidLength, 10)]

/-- The share that CODEC.ENC's operands name (45_codec.md R255). -/
def encShare (v : Snapshot) : Share where
  id := (v.reg 1).setWidth 15
  ext := v.regNat 2 == 1
  e := (v.reg 3).setWidth 4
  gi := (v.reg 4).setWidth 4
  gt := v.regNat 5
  gc := v.regNat 6
  mi := (v.reg 7).setWidth 4
  mt := v.regNat 8
  value := v.buf.readBytes (v.regNat 9) (v.regNat 10)

/-- What CODEC.ENC writes behind its checks (45_codec.md R255). -/
def encEffects (rd : Reg) (v : Snapshot) : Effects where
  regs := [(rd, BitVec.ofNat 32 (7 + payloadCount (v.regNat 10)))]
  addr := v.regNat 11
  bytes := bytesOfWords (shareWords (encShare v))

theorem encRule_eq (rd : Reg) (size : Nat) (v : Snapshot) :
    encRule rd size v = withRegions size (regionsOf (.codecEnc rd) v)
      (checked (encChecks v) (.ok (encEffects rd v))) := by
  refine congrArg (withRegions size _) ?_
  simp only [checked, encChecks, encEffects, encShare, decide_eq_true_eq, gt_iff_lt, ge_iff_le]

theorem exec_codecEnc {rd : Reg} {s : State} (hr : RegionsOk (.codecEnc rd) s) :
    exec (.codecEnc rd) s = .next (s.complete (checked (encChecks s.view)
      (.ok (encEffects rd s.view)))) := by
  rw [← withRegions_of_regionOk hr (checked _ _), ← encRule_eq]
  rfl

/-- A register below 2^k is its k-bit field. -/
theorem Snapshot.toNat_setWidth_reg {v : Snapshot} {r : Reg} {k : Nat} (h : v.regNat r < 2 ^ k) :
    ((v.reg r).setWidth k).toNat = v.regNat r := by
  rw [BitVec.toNat_setWidth]
  exact Nat.mod_eq_of_lt h

/-! ### The share of a word sequence -/

/-- The first header field, of a sequence's words 0 and 1 (45_codec.md R258). -/
def wordsIe (ws : List Word10) : BitVec 20 := ws.getD 0 0 ++ ws.getD 1 0

/-- The second header field, of words 2 and 3 (45_codec.md R258). -/
def wordsGm (ws : List Word10) : BitVec 20 := ws.getD 2 0 ++ ws.getD 3 0

/-- The extendable bit, which selects the customization string (45_codec.md R257, R258). -/
def wordsExt (ws : List Word10) : Bool := (ws.getD 1 0).getLsbD 4

/-- The payload of a sequence of c words as an integer (45_codec.md R258). -/
def wordsPayload (c : Nat) (ws : List Word10) : Nat := natOfWords ((ws.drop 4).take (c - 7))

/-- The share in a sequence of c words, its checks aside (45_codec.md R258). -/
def decodedShare (c : Nat) (ws : List Word10) : Share where
  id := (wordsIe ws).extractLsb' 5 15
  ext := wordsExt ws
  e := (wordsIe ws).extractLsb' 0 4
  gi := (wordsGm ws).extractLsb' 16 4
  gt := ((wordsGm ws).extractLsb' 12 4).toNat + 1
  gc := ((wordsGm ws).extractLsb' 8 4).toNat + 1
  mi := (wordsGm ws).extractLsb' 4 4
  mt := ((wordsGm ws).extractLsb' 0 4).toNat + 1
  value := bytesOfNat (decodedLength c) (wordsPayload c ws)

/-- The checks of a sequence of c words (45_codec.md R257, R258). -/
def shareChecks (c : Nat) (ws : List Word10) : List (Bool × ErrCode × Nat) := [
  (polymod (cust (wordsExt ws) ++ ws) 1 ≠ 1, .checksumFailed, 0),
  (wordsPayload c ws / 2 ^ (10 * (c - 7) - decodedPad c) ≠ 0, .invalidShareData, 4),
  ((decodedShare c ws).gc < (decodedShare c ws).gt, .invalidShareData, 5),
  ((decodedShare c ws).gc ≤ (decodedShare c ws).gi.toNat, .invalidShareData, 6)]

/-- A check before others is reported first (60_exceptions.md R303). -/
theorem elim_find?_cons {α : Type} (check : Bool × ErrCode × Nat)
    (rest : List (Bool × ErrCode × Nat)) (pass : α) (fail : Bool × ErrCode × Nat → α) :
    ((check :: rest).find? (·.1)).elim pass fail =
      if check.1 then fail check else (rest.find? (·.1)).elim pass fail := by
  obtain ⟨fires, e⟩ := check
  cases fires <;> rfl

/-- The decoder of a sequence answers the first check that fires, or the share. -/
theorem shareOfWords_eq {c : Nat} {ws : List Word10} (hc : ws.length = c) :
    shareOfWords ws =
      ((shareChecks c ws).find? (·.1)).elim (.ok (decodedShare c ws))
        fun check => .error check.2 := by
  subst hc
  have hvalid : polymod (cust (wordsExt ws) ++ ws) 1 ≠ 1 ↔ rsValid (wordsExt ws) ws = false := by
    simp [rsValid]
  simp only [shareChecks, elim_find?_cons, decide_eq_true_eq, hvalid, ← Nat.shiftRight_eq_div_pow]
  rfl

theorem shareOfWords_of_pass {c : Nat} {ws : List Word10} (hc : ws.length = c)
    (h : ∀ check ∈ shareChecks c ws, check.1 = false) :
    shareOfWords ws = .ok (decodedShare c ws) := by
  have hnone : (shareChecks c ws).find? (·.1) = none :=
    List.find?_eq_none.2 fun check hmem => by simp [h check hmem]
  rw [shareOfWords_eq hc, hnone]
  rfl

/-! ### CODEC.DEC -/

/-- A region is a check of its own, which raises its start (20_memory.md R75). -/
theorem withRegions_singleton (size a m : Nat) (body : Result) :
    withRegions size [(a, m)] body =
      if ¬ RegionOk size (a, m) then raise .bufRange a else body := by
  by_cases h : RegionOk size (a, m)
  · rw [if_neg (not_not.2 h), withRegions_of_regionOk (by simpa using h)]
  · rw [if_pos h]
    exact withRegions_append_cons (pre := []) (by simp) h body

/-- The words of the sequence that CODEC.DEC reads (45_codec.md R258). -/
def decWords (v : Snapshot) : List Word10 := words10 (readHalves v.buf (v.regNat 1) (v.regNat 2))

theorem length_decWords (v : Snapshot) : (decWords v).length = v.regNat 2 := by
  simp [decWords, words10, readHalves]

/-- The checks of 45_codec.md R258: the lengths and the output region, the words, the share. -/
def decChecks (size : Nat) (v : Snapshot) : List (Bool × ErrCode × Nat) :=
  (v.regNat 2 < 20, .invalidMnemonicLength, v.regNat 2) ::
  (8 < decodedPad (v.regNat 2), .invalidMnemonicLength, v.regNat 2) ::
  (¬ RegionOk size (v.regNat 3, decodedLength (v.regNat 2)), .bufRange, v.regNat 3) ::
  (anyAbove1023 (readHalves v.buf (v.regNat 1) (v.regNat 2)), .invalidShareData, 3) ::
  shareChecks (v.regNat 2) (decWords v)

/-- What CODEC.DEC writes behind its checks (45_codec.md R258). -/
def decOutputs (v : Snapshot) : Effects :=
  decEffects (v.regNat 3) (v.regNat 2) (decodedShare (v.regNat 2) (decWords v))

theorem decRule_eq (size : Nat) (v : Snapshot) :
    decRule size v = withRegions size (regionsOf .codecDec v)
      (checked (decChecks size v) (.ok (decOutputs v))) := by
  refine congrArg (withRegions size _) ?_
  simp only [checked, decChecks, decide_eq_true_eq, gt_iff_lt, withRegions_singleton]
  rw [← decWords, shareOfWords_eq (length_decWords v)]
  cases h : (shareChecks (v.regNat 2) (decWords v)).find? (·.1) with
  | none =>
    rw [checked_of_pass _ fun c hc => by simpa using List.find?_eq_none.1 h c hc]
    rfl
  | some check =>
    rw [checked_of_find? _ h]
    rfl

theorem exec_codecDec {s : State} (hr : RegionsOk .codecDec s) :
    exec .codecDec s =
      .next (s.complete (checked (decChecks s.bufSize s.view) (.ok (decOutputs s.view)))) := by
  rw [← withRegions_of_regionOk hr (checked _ _), ← decRule_eq]
  rfl

/-- The registers that CODEC.DEC writes, in the fields of the header (45_codec.md R258). -/
theorem regs_decOutputs (v : Snapshot) : (decOutputs v).regs = [
    (4, ((wordsIe (decWords v)).extractLsb' 5 15).setWidth 32),
    (5, if wordsExt (decWords v) then 1 else 0),
    (6, ((wordsIe (decWords v)).extractLsb' 0 4).setWidth 32),
    (7, ((wordsGm (decWords v)).extractLsb' 16 4).setWidth 32),
    (8, BitVec.ofNat 32 (((wordsGm (decWords v)).extractLsb' 12 4).toNat + 1)),
    (9, BitVec.ofNat 32 (((wordsGm (decWords v)).extractLsb' 8 4).toNat + 1)),
    (10, ((wordsGm (decWords v)).extractLsb' 4 4).setWidth 32),
    (11, ((wordsGm (decWords v)).extractLsb' 0 4).setWidth 32 + 1),
    (12, BitVec.ofNat 32 (decodedLength (v.regNat 2)))] := by
  have hext (b : Bool) : (BitVec.ofBool b).setWidth 32 = if b then 1#32 else 0#32 := by
    cases b <;> rfl
  have hmt (x : BitVec 4) : BitVec.ofNat 32 (x.toNat + 1) = x.setWidth 32 + 1 := by
    rw [BitVec.ofNat_add, BitVec.ofNat_toNat]
    rfl
  simp only [decOutputs, decEffects, decodedShare, hext, hmt]
  rfl

theorem nodup_regs_decOutputs (v : Snapshot) : ((decOutputs v).regs.map (·.1)).Nodup :=
  (by decide : ([4, 5, 6, 7, 8, 9, 10, 11, 12] : List Reg).Nodup)

/-! ### A decoded share is the encoded one -/

/-- For a value of even length the decoder's padding is the encoder's, 10W - 8n (45_codec.md R254). -/
theorem decodedPad_payloadCount {n : Nat} (h : n % 2 = 0) :
    decodedPad (7 + payloadCount n) = 10 * payloadCount n - 8 * n := by
  simp only [decodedPad, payloadCount]
  omega

theorem decodedLength_payloadCount {n : Nat} (h : n % 2 = 0) :
    decodedLength (7 + payloadCount n) = n := by
  rw [decodedLength, decodedPad_payloadCount h, payloadCount]
  omega

theorem wordsIe_shareWords (sh : Share) : wordsIe (shareWords sh) = headerIe sh := wordPair_append _

theorem wordsGm_shareWords (sh : Share) : wordsGm (shareWords sh) = headerGm sh := wordPair_append _

theorem wordsExt_shareWords (sh : Share) : wordsExt (shareWords sh) = sh.ext := by
  obtain ⟨-, hext, -⟩ := headerIe_fields sh
  exact hext

/-- The words between header and checksum are the value's digits (45_codec.md R253, R258). -/
theorem wordsPayload_shareWords (sh : Share) :
    wordsPayload (7 + payloadCount sh.value.length) (shareWords sh) = natOfBytes sh.value := by
  have hpayload : ((shareWords sh).drop 4).take (payloadCount sh.value.length) =
      payloadWords sh.value := List.take_left' (length_payloadWords sh.value)
  rw [wordsPayload, Nat.add_sub_cancel_left, hpayload, natOfWords_payloadWords]

theorem decodedShare_shareWords {sh : Share} (hgt : 1 ≤ sh.gt) (hgt' : sh.gt ≤ 16) (hgc : 1 ≤ sh.gc)
    (hgc' : sh.gc ≤ 16) (hmt : 1 ≤ sh.mt) (hmt' : sh.mt ≤ 16) (heven : sh.value.length % 2 = 0) :
    decodedShare (7 + payloadCount sh.value.length) (shareWords sh) = sh := by
  obtain ⟨hid, -, he⟩ := headerIe_fields sh
  obtain ⟨hgi, hgtField, hgcField, hmi, hmtField⟩ := headerGm_fields sh
  simp only [decodedShare, wordsIe_shareWords, wordsGm_shareWords, wordsExt_shareWords,
    wordsPayload_shareWords, decodedLength_payloadCount heven, bytesOfNat_natOfBytes, hid, he, hgi,
    hgtField, hgcField, hmi, hmtField, toNat_countField hgt', toNat_countField hgc',
    toNat_countField hmt', Nat.sub_add_cancel hgt, Nat.sub_add_cancel hgc, Nat.sub_add_cancel hmt]

/-- The value leaves the padding bits zero (45_codec.md R252, R257). -/
theorem payload_padding_zero {value : List Byte} (heven : value.length % 2 = 0) :
    natOfBytes value / 2 ^ (10 * payloadCount value.length -
      decodedPad (7 + payloadCount value.length)) = 0 := by
  have hbits : 10 * payloadCount value.length - decodedPad (7 + payloadCount value.length) =
      8 * value.length := by
    rw [decodedPad_payloadCount heven, payloadCount]
    omega
  rw [hbits]
  exact Nat.div_eq_of_lt (natOfBytes_lt value)

end Sys2Proof.Machine

namespace Sys2Proof.Machine

/-! CLAIMS. The share codec (45_codec.md). -/

/-- Settles O57: each header field is its two words, and the payload has room for the value. -/
theorem shareWordsPackTheShare : Obligations.ShareWordsPackTheShare := by
  intro sh _ hgt _ hgc _ hmt
  refine ⟨⟨_, _, _, _, rfl, ?_, ?_⟩, natOfWords_payloadWords _, length_payloadWords _⟩
  · rw [toNat_wordPair, toNat_headerIe]
  · rw [toNat_wordPair, toNat_headerGm hgt hgc hmt]

/-- Settles O58: the registers' fields are the share's, since the checks bound the registers. -/
theorem codecEncChecksThenWritesTheWords : Obligations.CodecEncChecksThenWritesTheWords := by
  intro s rd hr v
  have hexec : exec (.codecEnc rd) s =
      .next (s.complete (checked (encChecks v) (.ok (encEffects rd v)))) := exec_codecEnc hr
  refine ⟨raisesFirst_of_checked hexec, ?_⟩
  intro hwf hid hext he hgi hgt hgt' hgc hgc' hmi hmt hmt' hgtgc hgigc hn heven
  have hpass : ∀ check ∈ encChecks v, check.1 = false := by
    simp only [encChecks, List.forall_mem_cons, decide_eq_false_iff_not, not_or, not_lt, not_le]
    exact ⟨hid, hext, he, hgi, ⟨hgt, hgt'⟩, ⟨hgc, hgc'⟩, hmi, ⟨hmt, hmt'⟩, hgtgc, hgigc,
      ⟨hn, by omega⟩, by simp⟩
  rw [checked_of_pass _ hpass] at hexec
  obtain ⟨t, ht, hcompletes⟩ :=
    exec_completesWith (regs := [(rd, _)]) hwf (List.nodup_singleton rd) hexec
  exact ⟨t, encShare v, ht, Snapshot.toNat_setWidth_reg (Nat.lt_succ_of_le hid), beq_iff_eq,
    Snapshot.toNat_setWidth_reg (Nat.lt_succ_of_le he),
    Snapshot.toNat_setWidth_reg (Nat.lt_succ_of_le hgi), rfl, rfl,
    Snapshot.toNat_setWidth_reg (Nat.lt_succ_of_le hmi), rfl, rfl, hcompletes⟩

/-- Settles O59: the sequence's own checks stand behind the lengths, the output region and the words. -/
theorem codecDecChecksThenWritesTheShare : Obligations.CodecDecChecksThenWritesTheShare := by
  intro s hr c W pad vlen hs ws ie gm ext v gi gt gc
  have hexec : exec .codecDec s =
      .next (s.complete (checked (decChecks s.bufSize s.view) (.ok (decOutputs s.view)))) :=
    exec_codecDec hr
  refine ⟨raisesFirst_of_checked hexec, ?_⟩
  intro hwf hc hpad hout hwords hsum hzero hgt hgi
  have habove : anyAbove1023 hs = false := by simpa [anyAbove1023] using hwords
  have hpass : ∀ check ∈ decChecks s.bufSize s.view, check.1 = false := by
    simp only [decChecks, shareChecks, List.forall_mem_cons, decide_eq_false_iff_not, not_not,
      not_lt, not_le]
    exact ⟨hc, hpad, hout, habove, hsum, hzero, hgt, hgi, by simp⟩
  rw [checked_of_pass _ hpass] at hexec
  obtain ⟨t, ht, hcompletes⟩ := exec_completesWith hwf (nodup_regs_decOutputs s.view) hexec
  rw [regs_decOutputs] at hcompletes
  exact ⟨t, ht, hcompletes⟩

/-- Settles O60: every field comes back, and with it every check passes; the checksum by O55. -/
theorem decodedShareIsTheEncodedOne : Obligations.DecodedShareIsTheEncodedOne := by
  intro sh hgt hgtgc hgc hgi hmt hmt' hn heven
  have hlen := length_shareWords sh
  have hshare := decodedShare_shareWords hgt (hgtgc.trans hgc) (hgt.trans hgtgc) hgc hmt hmt' heven
  have hvalid : polymod (cust sh.ext ++ shareWords sh) 1 = 1 :=
    beq_iff_eq.1 (createdChecksumVerifies sh.ext (headerWords sh ++ payloadWords sh.value))
  refine ⟨?_, ?_, ?_⟩
  · rw [hlen, payloadCount]
    omega
  · rw [hlen, decodedPad_payloadCount heven, payloadCount]
    omega
  · rw [shareOfWords_of_pass hlen, hshare]
    simp only [shareChecks, hshare, wordsExt_shareWords, wordsPayload_shareWords,
      Nat.add_sub_cancel_left, payload_padding_zero heven, List.forall_mem_cons,
      decide_eq_false_iff_not, not_not, not_lt, not_le]
    exact ⟨hvalid, trivial, hgtgc, hgi, by simp⟩

end Sys2Proof.Machine

namespace Sys2Proof.Machine

/-! SUPPORT. The moves, loads and stores behind their region check: addresses, halves of words, and
what each command's rule answers (46_move_load_store.md R281 to R291). -/

/-! ### Addresses and their regions -/

/-- The offset as its field holds it: the sum is exact (46_move_load_store.md R281). -/
theorem effAddr_toNat (v : Snapshot) (rs1 : Reg) (off : BitVec 12) :
    effAddr v rs1 off.toNat = (v.reg rs1).toNat + off.toNat := by
  rw [effAddr, BitVec.ofNat_toNat, BitVec.setWidth_eq, Snapshot.regNat]

theorem regionsOf_ldb (v : Snapshot) (rd rs1 : Reg) (off : BitVec 12) :
    regionsOf (.ldb rd rs1 off.toNat) v = [((v.reg rs1).toNat + off.toNat, 1)] := by
  rw [regionsOf, effAddr_toNat]

theorem regionsOf_stb (v : Snapshot) (rs1 rs2 : Reg) (off : BitVec 12) :
    regionsOf (.stb rs1 rs2 off.toNat) v = [((v.reg rs1).toNat + off.toNat, 1)] := by
  rw [regionsOf, effAddr_toNat]

theorem regionsOf_ldh (v : Snapshot) (rd rs1 : Reg) (off : BitVec 12) :
    regionsOf (.ldh rd rs1 off.toNat) v = [((v.reg rs1).toNat + off.toNat, 2)] := by
  rw [regionsOf, effAddr_toNat]

theorem regionsOf_sth (v : Snapshot) (rs1 rs2 : Reg) (off : BitVec 12) :
    regionsOf (.sth rs1 rs2 off.toNat) v = [((v.reg rs1).toNat + off.toNat, 2)] := by
  rw [regionsOf, effAddr_toNat]

theorem regionsOk_of_le {i : Instr} {s : State} {a m : Nat}
    (hregions : regionsOf i s.view = [(a, m)]) (h : a + m ≤ s.bufSize) : RegionsOk i s := by
  intro r hr
  rw [hregions, List.mem_singleton] at hr
  exact hr ▸ .inr h

/-- A command whose one region ends beyond BUF_SIZE raises BUF_RANGE with its start mod 2^32
(20_memory.md R75): `firstRegionOutOfRangeIsReported` with no region before it. -/
theorem exec_raises_bufRange {i : Instr} {s : State} {a m : Nat}
    (hregions : regionsOf i s.view = [(a, m)]) (hm : m ≠ 0) (h : s.bufSize < a + m) :
    ∃ t, exec i s = .next t ∧ s.CompletedErr t .bufRange (BitVec.ofNat 32 (a % 2 ^ 32)) := by
  have hbad : ¬ RegionOk s.bufSize (a, m) := not_or.2 ⟨hm, Nat.not_le.2 h⟩
  have hinfo : BitVec.ofNat 32 (a % 2 ^ 32) = BitVec.ofNat 32 a := BitVec.eq_of_toNat_eq (by simp)
  rw [hinfo]
  exact (firstRegionOutOfRangeIsReported s).1 i [] [] a m hregions (by simp) hbad

/-! ### Values -/

/-- R284's immediate, as the field holds it. -/
theorem immLow_toNat (imm : BitVec 16) : immLow imm.toNat = imm.setWidth 32 := by
  rw [immLow, BitVec.ofNat_toNat, BitVec.setWidth_eq]

/-- R285's word, as a number. -/
theorem toNat_immHigh (imm : BitVec 16) (old : Word) :
    (immHigh imm.toNat old).toNat = imm.toNat * 2 ^ 16 + old.toNat % 2 ^ 16 := by
  rw [immHigh, BitVec.ofNat_toNat, BitVec.setWidth_eq, toNat_append_bits, BitVec.extractLsb'_toNat,
    Nat.shiftRight_zero]

/-- The halfword at a, most significant byte first (20_memory.md R71). -/
theorem Memory.toNat_readHalf (m : Memory) (a : Nat) :
    (m.readHalf a).toNat = (m.read a).toNat * 2 ^ 8 + (m.read (a + 1)).toNat :=
  toNat_append_byte _ _

theorem low8_eq_extractLsb' (w : Word) : low8 w = w.extractLsb' 0 8 :=
  BitVec.setWidth_eq_extractLsb' (by decide)

/-- R290's two bytes, the high one first. -/
theorem bytesOfHalf_low16 (w : Word) :
    bytesOfHalf (low16 w) = [w.extractLsb' 8 8, w.extractLsb' 0 8] := by
  rw [bytesOfHalf, low16, BitVec.extractLsb'_setWidth_of_le (by decide),
    BitVec.extractLsb'_setWidth_of_le (by decide)]

/-! ### What each command answers in range -/

/-- The rule's body is the answer once the command's regions are in range. -/
theorem exec_of_regionsOk {i : Instr} {s : State} {body : Result} (hr : RegionsOk i s)
    (hexec : exec i s = .next (s.complete (withRegions s.bufSize (regionsOf i s.view) body))) :
    exec i s = .next (s.complete body) := by
  rw [hexec, withRegions_of_regionOk hr]

theorem exec_ldb {rd rs1 : Reg} {off : BitVec 12} {s : State}
    (hr : RegionsOk (.ldb rd rs1 off.toNat) s) :
    exec (.ldb rd rs1 off.toNat) s = .next (s.complete
      (okReg rd ((s.view.buf.read ((s.view.reg rs1).toNat + off.toNat)).setWidth 32))) := by
  rw [← effAddr_toNat]
  exact exec_of_regionsOk hr rfl

theorem exec_ldh {rd rs1 : Reg} {off : BitVec 12} {s : State}
    (hr : RegionsOk (.ldh rd rs1 off.toNat) s) :
    exec (.ldh rd rs1 off.toNat) s = .next (s.complete
      (okReg rd ((s.view.buf.readHalf ((s.view.reg rs1).toNat + off.toNat)).setWidth 32))) := by
  rw [← effAddr_toNat]
  exact exec_of_regionsOk hr rfl

theorem exec_stb {rs1 rs2 : Reg} {off : BitVec 12} {s : State}
    (hr : RegionsOk (.stb rs1 rs2 off.toNat) s) :
    exec (.stb rs1 rs2 off.toNat) s = .next (s.complete
      (okBytes ((s.view.reg rs1).toNat + off.toNat) [(s.view.reg rs2).extractLsb' 0 8])) := by
  rw [← effAddr_toNat, ← low8_eq_extractLsb']
  exact exec_of_regionsOk hr rfl

theorem exec_sth {rs1 rs2 : Reg} {off : BitVec 12} {s : State}
    (hr : RegionsOk (.sth rs1 rs2 off.toNat) s) :
    exec (.sth rs1 rs2 off.toNat) s = .next (s.complete
      (okBytes ((s.view.reg rs1).toNat + off.toNat)
        [(s.view.reg rs2).extractLsb' 8 8, (s.view.reg rs2).extractLsb' 0 8])) := by
  rw [← effAddr_toNat, ← bytesOfHalf_low16]
  exact exec_of_regionsOk hr rfl

theorem exec_wipe {s : State} (hr : RegionsOk .wipe s) : exec .wipe s =
    .next (s.complete (okBytes (s.view.regNat 1) (List.replicate (s.view.regNat 2) 0))) :=
  exec_of_regionsOk hr rfl

/-- A command whose rule answers no writes completes and changes nothing else
(46_move_load_store.md R280). -/
theorem exec_completesWithNoRegs {i : Instr} {s : State}
    (h : exec i s = .next (s.complete (.ok {}))) :
    ∃ t, exec i s = .next t ∧ s.CompletesWithRegs t [] :=
  ⟨_, h, s.completedOk_complete _, ⟨by simp, fun _ _ => rfl⟩, fun _ => rfl, ⟨rfl, rfl⟩⟩

end Sys2Proof.Machine

namespace Sys2Proof.Machine

/-! CLAIMS. Moves, loads, stores and WIPE (46_move_load_store.md). -/

/-- Settles O26: the rules check nothing, so each answers its register in every state. -/
theorem movesCompleteAndWriteTheirRegister : Obligations.MovesCompleteAndWriteTheirRegister := by
  intro s rd rs1 imm
  refine ⟨exec_completesWithNoRegs rfl, ?_, ?_, exec_completesWithRegs rfl⟩
  · rw [← immLow_toNat]
    exact exec_completesWithRegs rfl
  · obtain ⟨t, ht, hregs⟩ := exec_completesWithRegs (i := .lih rd imm.toNat) (s := s) rfl
    exact ⟨t, _, ht, hregs, toNat_immHigh imm (s.view.reg rd)⟩

/-- Settles O27: behind the region check the rule answers the byte or the halfword at the address. -/
theorem loadsReadTheirAddress : Obligations.LoadsReadTheirAddress := by
  intro s rd rs1 off ea
  refine ⟨fun h => ?_, fun h => ?_⟩
  · have hr := regionsOk_of_le (regionsOf_ldb s.view rd rs1 off) h
    obtain ⟨t, ht, hregs⟩ := exec_completesWithRegs (exec_ldb hr)
    exact ⟨t, _, ht, hregs, BitVec.toNat_setWidth_of_le (by decide)⟩
  · have hr := regionsOk_of_le (regionsOf_ldh s.view rd rs1 off) h
    obtain ⟨t, ht, hregs⟩ := exec_completesWithRegs (exec_ldh hr)
    exact ⟨t, _, ht, hregs,
      (BitVec.toNat_setWidth_of_le (by decide)).trans (s.view.buf.toNat_readHalf ea)⟩

/-- Settles O28: behind the region check the rule answers the bytes of G[rs2], which BUF takes. -/
theorem storesWriteTheirAddressOnly : Obligations.StoresWriteTheirAddressOnly := by
  intro s rs1 rs2 off hwf ea v
  refine ⟨fun h => ?_, fun h => ?_⟩
  · have hr := regionsOk_of_le (regionsOf_stb s.view rs1 rs2 off) h
    exact exec_completesWithBytes hwf (exec_stb hr)
  · have hr := regionsOk_of_le (regionsOf_sth s.view rs1 rs2 off) h
    exact exec_completesWithBytes hwf (exec_sth hr)

/-- Settles O29: the access is the command's one region, of one byte or of two. -/
theorem loadsAndStoresOutOfRangeRaise : Obligations.LoadsAndStoresOutOfRangeRaise := by
  intro s rd rs1 rs2 off ea info
  refine ⟨fun h => ⟨?_, ?_⟩, fun h => ⟨?_, ?_⟩⟩
  · exact exec_raises_bufRange (regionsOf_ldb s.view rd rs1 off) one_ne_zero h
  · exact exec_raises_bufRange (regionsOf_stb s.view rs1 rs2 off) one_ne_zero h
  · exact exec_raises_bufRange (regionsOf_ldh s.view rd rs1 off) two_ne_zero h
  · exact exec_raises_bufRange (regionsOf_sth s.view rs1 rs2 off) two_ne_zero h

/-- Settles O30: behind the region check the rule answers m zero bytes at A, none where m = 0. -/
theorem wipeZeroesItsRegionOnly : Obligations.WipeZeroesItsRegionOnly :=
  fun _ hwf hr => exec_completesWithBytes hwf (exec_wipe hr)

end Sys2Proof.Machine

namespace Sys2Proof.Machine

/-! SUPPORT. The lifecycle of a command: what its acceptance, its run and its completion lead to
(60_exceptions.md R300, R301, R305, R306). -/

/-! ### Acceptance -/

/-- A write of CMD is one step: it accepts the word while BUSY = 0 and is dropped while BUSY = 1
(60_exceptions.md R300, 70_reset_and_hazards.md R350). -/
theorem step_hostWrite_cmd {s : State} {w : Word} {rest : List Event}
    (h : s.inputs = .hostWrite 0x010 4 w :: rest) :
    step s = .next (if s.busy then State.setOvr { s with inputs := rest }
      else State.accept { s with inputs := rest } w) :=
  step_hostWrite h rfl (by omega)

/-- A word placed bit by bit is the word (log 9). -/
theorem State.withFetchWord_toNat (s : State) (w : Word) :
    s.withFetchWord 32 w.toNat = s.placeCommand w := by
  rw [State.withFetchWord, Nat.mod_eq_of_lt w.isLt, BitVec.ofNat_toNat, BitVec.setWidth_eq]

/-! ### IRQ -/

/-- IRQ while DONE is clear, as an acceptance leaves it (60_exceptions.md R315). -/
theorem State.irq_of_not_done {s : State} (h : s.done = false) : s.irq = false := by
  rw [State.irq, h, Bool.and_false]

/-- IRQ while DONE is set, as a completion leaves it (60_exceptions.md R315). -/
theorem State.irq_of_done {s : State} (h : s.done = true) : s.irq = s.ie := by
  rw [State.irq, h, Bool.and_true]

/-! ### The run and the completion -/

theorem engineMove_of_decode {s : State} {p : Pending} {i : Instr} (hp : s.pending = some p)
    (hi : decode p.word = .ok i) : engineMove s = exec i s := by
  rw [engineMove_pending hp, runWord, hi]

/-- A completion that leaves ERR set took an error, and so wrote nothing but the record
(60_exceptions.md R306). -/
theorem State.completedErr_of_err {s : State} {r : Result} (h : (s.complete r).err = true) :
    ∃ c info, s.CompletedErr (s.complete r) c info := by
  cases r with
  | ok e => rw [State.complete_ok_err] at h; exact Bool.noConfusion h
  | err c info => exact ⟨c, info, s.completedErr_takeError c info⟩

end Sys2Proof.Machine

namespace Sys2Proof.Machine

/-! CLAIMS. Acceptance, completion and errors (60_exceptions.md). -/

/-- Settles O6: in both event cases the step is the engine's move, which runs the pending word. -/
theorem stepRunsTheDecodedCommand : Obligations.StepRunsTheDecodedCommand := by
  intro s p i hp hi
  refine ⟨fun hin => ?_, fun rest hin => ?_⟩
  · rw [step_idle hin]
    exact engineMove_of_decode hp hi
  · rw [step_event hin]
    exact engineMove_of_decode hp hi

/-- Settles O7: the placed word is accepted with the engine's move next, which O6 is about. -/
theorem placedCommandRunsNext : Obligations.PlacedCommandRunsNext := by
  intro s w i hi
  obtain ⟨-, hmove⟩ := stepRunsTheDecodedCommand (s.placeCommand w) _ i (s.placeCommand_pending w) hi
  rw [s.withFetchWord_toNat]
  exact hmove s.inputs (s.placeCommand_inputs w)

/-- Settles O8: the write's two outcomes are the acceptance and the dropped write. -/
theorem cmdWriteAcceptsWhenIdle : Obligations.CmdWriteAcceptsWhenIdle := by
  intro s w rest hin
  refine ⟨fun hb => ?_, fun hb => ?_⟩
  · have haccept : step s = .next (State.accept { s with inputs := rest } w) := by
      rw [step_hostWrite_cmd hin, hb]; rfl
    exact ⟨_, haccept, rfl, rfl, rfl, rfl, rfl, rfl, rfl, rfl, State.irq_of_not_done rfl, rfl, rfl,
      rfl, rfl, ⟨rfl, rfl⟩, rfl⟩
  · have hdropped : step s = .next (State.setOvr { s with inputs := rest }) := by
      rw [step_hostWrite_cmd hin, hb]; rfl
    exact ⟨_, hdropped, rfl, hb⟩

/-- Settles O9: every command is the completion of its rule's answer, whose code, if it is an error,
some rule raises. -/
theorem everyCommandCompletes : Obligations.EveryCommandCompletes := by
  intro i s
  obtain ⟨rule, hruns, hsound⟩ := exec_isRule i
  refine ⟨_, hruns s, ?_⟩
  have hr : (rule s.entropyAhead s.bufSize s.view).Sound s.bufSize := hsound _ _ _
  cases h : rule s.entropyAhead s.bufSize s.view with
  | ok e =>
    have hok := s.completedOk_complete e
    exact ⟨hok.busy, hok.done, hok.pending, hok.scratch, State.irq_of_done hok.done, hok.hostSide,
      fun _ => ⟨hok.errCode, hok.errInfo⟩, fun herr => absurd (hok.err.symm.trans herr) (by decide)⟩
  | err c info =>
    have herr := s.completedErr_takeError c info
    rw [h] at hr
    exact ⟨herr.busy, herr.done, herr.pending, herr.scratch, State.irq_of_done herr.done,
      herr.hostSide, fun hno => absurd (herr.err.symm.trans hno) (by decide),
      fun _ => legalErrCode_code hr⟩

/-- Settles O10: the engine's move is the completion of some outcome, which is an error as ERR is set. -/
theorem errorWritesOnlyTheRecord : Obligations.ErrorWritesOnlyTheRecord := by
  intro s t p hin hp hstep herr
  rw [step_engineMove hin] at hstep
  rcases engineMove_cases { s with inputs := s.inputs.tail } with ⟨hnone, -⟩ | ⟨q, r, -, hmove⟩
  · exact absurd (hp.symm.trans hnone) (Option.some_ne_none p)
  · obtain rfl := Host.Outcome.next.inj (hstep.symm.trans hmove)
    obtain ⟨c, info, hc⟩ := State.completedErr_of_err herr
    exact ⟨hc.g, hc.buf, ⟨hc.entropy.pos, hc.entropy.injected⟩, hc.scratch, hc.busy, hc.done,
      hc.pending, hc.hostSide⟩

end Sys2Proof.Machine

namespace Sys2Proof.Machine

/-! SUPPORT. What a reset leads to and how much entropy it loses, and the host accesses that the BUSY
hazard is about (70_reset_and_hazards.md R340 to R342, R350). -/

/-! ### The reset values -/

/-- Every register, flag and byte of BUF is 0, nothing is pending and scratch is zero
(70_reset_and_hazards.md R340, R341). -/
structure State.AtResetValues (t : State) : Prop where
  g : ∀ r : Reg, t.g.read r = 0
  buf : ∀ a, t.buf.read a = 0
  busy : t.busy = false
  done : t.done = false
  err : t.err = false
  ovr : t.ovr = false
  errCode : t.errCode = 0
  errInfo : t.errInfo = 0
  ie : t.ie = false
  irq : t.irq = false
  pending : t.pending = none
  scratch : t.scratch = []

theorem Regs.read_reset (r : Reg) : State.reset.g.read r = 0 := by
  simp [Regs.read, State.reset]

theorem State.atResetValues_resetCore (s : State) : s.resetCore.AtResetValues where
  g := Regs.read_reset
  buf _ := rfl
  busy := rfl
  done := rfl
  err := rfl
  ovr := rfl
  errCode := rfl
  errInfo := rfl
  ie := rfl
  irq := rfl
  pending := rfl
  scratch := rfl

/-! ### The entropy that an abandoned command loses -/

/-- A split draws at most what its two parts of the base draw, and nothing on an error
(42_shamir.md R192). -/
theorem splitRule_draws_le (E : Nat → Byte) (size : Nat) (v : Snapshot) :
    (splitRule E size v).draws ≤ splitDraws (v.regNat 2) (v.regNat 3) := by
  rcases splitRule_cases E size v with ⟨code, info, herr⟩ | hok
  · rw [herr]
    exact Nat.zero_le _
  · rw [hok]
    simp only [Result.draws, splitEffects]
    split_ifs
    · exact Nat.zero_le _
    · exact Nat.le_refl _

section States

variable {s : State}

theorem State.pendingDraws_of_split {p : Pending} (hp : s.pending = some p)
    (hi : decode p.word = .ok .sssSplit) :
    s.pendingDraws = (splitRule s.entropyAhead s.bufSize p.snapshot).draws := by
  simp only [State.pendingDraws, hp, hi]

/-- Only SSS.SPLIT draws entropy (42_shamir.md R192). -/
theorem State.pendingDraws_of_not_split
    (h : ∀ p, s.pending = some p → decode p.word ≠ .ok .sssSplit) : s.pendingDraws = 0 := by
  unfold State.pendingDraws
  split
  next => rfl
  next p hp =>
    split
    next hi => exact absurd hi (h p hp)
    next => rfl

theorem State.pendingDraws_le {p : Pending} (hp : s.pending = some p) :
    s.pendingDraws ≤ splitDraws (p.snapshot.regNat 2) (p.snapshot.regNat 3) := by
  by_cases hi : decode p.word = .ok .sssSplit
  · rw [State.pendingDraws_of_split hp hi]
    exact splitRule_draws_le _ _ _
  · have hnone : s.pendingDraws = 0 := State.pendingDraws_of_not_split fun q hq => by
      cases hp.symm.trans hq
      exact hi
    rw [hnone]
    exact Nat.zero_le _

/-- The loss advances the stream by a free number of bytes within the command's draws
(70_reset_and_hazards.md R342; log 6). -/
theorem State.loseAbandonedDraws_entropy (s : State) : ∃ n ≤ s.pendingDraws,
    s.loseAbandonedDraws.entropyPos = s.entropyPos + n ∧
      s.loseAbandonedDraws.entropyIn = s.entropyIn.drop n := by
  unfold State.loseAbandonedDraws
  split_ifs
  · exact ⟨0, Nat.zero_le _, rfl, rfl⟩
  · exact ⟨_, Nat.le_of_lt_succ (Nat.mod_lt _ (Nat.succ_pos _)), rfl, rfl⟩

/-! ### The step that resets -/

/-- What a reset of s leads to: the reset values, BUF_SIZE as it was, and the entropy stream advanced by
no more than the abandoned command draws (70_reset_and_hazards.md R340, R342). -/
structure State.ResetsTo (s t : State) : Prop where
  values : t.AtResetValues
  bufSize : t.bufSize = s.bufSize
  entropy : ∃ n ≤ s.pendingDraws,
    t.entropyPos = s.entropyPos + n ∧ t.entropyIn = s.entropyIn.drop n

theorem State.resetsTo_resetNow (s : State) : s.ResetsTo s.resetNow where
  values := s.loseAbandonedDraws.atResetValues_resetCore
  bufSize := s.loseAbandonedDraws_bufSize
  entropy := s.loseAbandonedDraws_entropy

/-- The events still to come are no part of what a reset speaks of. -/
theorem State.ResetsTo.of_inputs {es : List Event} {t : State}
    (h : State.ResetsTo { s with inputs := es } t) : s.ResetsTo t :=
  ⟨h.values, h.bufSize, h.entropy⟩

/-- A write of CTRL is one step (10_state.md R40). -/
theorem step_hostWrite_ctrl {v : Word} {rest : List Event}
    (h : s.inputs = .hostWrite 0x004 4 v :: rest) :
    step s = .next (State.writeCtrl { s with inputs := rest } v) :=
  step_hostWrite h rfl (by omega)

/-- Either reset event takes effect in one step, whether or not a command runs
(70_reset_and_hazards.md R340, R342). -/
theorem step_resets {e : Event} {v : Word} {rest : List Event} (h : s.inputs = e :: rest)
    (he : e = .hardReset ∨ (e = .hostWrite 0x004 4 v ∧ v.getLsbD 1 = true)) :
    ∃ t, step s = .next t ∧ s.ResetsTo t := by
  refine ⟨State.resetNow { s with inputs := rest }, ?_, (State.resetsTo_resetNow _).of_inputs⟩
  rcases he with rfl | ⟨rfl, hv⟩
  · rw [step_event h]; rfl
  · rw [step_hostWrite_ctrl h, State.writeCtrl, if_pos hv]

/-! ### The accesses of the BUSY hazard -/

/-- The targets whose host writes the core drops while a command runs (70_reset_and_hazards.md R350). -/
inductive Target.Hazardous : Target → Prop
  | cmd : Target.Hazardous .cmd
  | reg (i : Reg) : Target.Hazardous (.reg i)
  | bufWord (a : Nat) : Target.Hazardous (.bufWord a)

/-- The aligned offsets of CMD, G and BUF (20_memory.md R77). -/
theorem targetOf_hazardous {off : Nat} (ha : off % 4 = 0)
    (hoff : off = 0x010 ∨ (0x040 ≤ off ∧ off ≤ 0x07C) ∨ 0x1000 ≤ off) :
    (targetOf off).Hazardous := by
  rcases hoff with rfl | ⟨hlo, hhi⟩ | hbuf
  · exact .cmd
  · obtain ⟨k, rfl⟩ : ∃ k, off = 0x040 + 4 * k := ⟨(off - 0x040) / 4, by omega⟩
    have htarget : targetOf (0x040 + 4 * k) = _ := targetOf_reg ⟨k, by omega⟩
    rw [htarget]
    exact .reg _
  · obtain ⟨a, rfl⟩ := Nat.exists_eq_add_of_le hbuf
    rw [targetOf_bufWord]
    exact .bufWord a

theorem State.writeTarget_dropped (hb : s.busy = true) {x : Target} (hx : x.Hazardous) (v : Word) :
    s.writeTarget x v = s.setOvr := by
  cases hx <;> exact if_pos hb

end States

end Sys2Proof.Machine

namespace Sys2Proof.Machine

/-! CLAIMS. Reset and the BUSY hazard (70_reset_and_hazards.md). -/

/-- Settles O20: the reset state is the reset of itself. -/
theorem resetStateHoldsTheResetValues : Obligations.ResetStateHoldsTheResetValues := by
  obtain ⟨hg, hbuf, hbusy, hdone, herr, hovr, hcode, hinfo, hie, hirq, hpending, hscratch⟩ :=
    State.reset.atResetValues_resetCore
  exact ⟨hg, hbuf, hbusy, hdone, herr, hovr, hcode, hinfo, hie, hirq, hpending, hscratch⟩

/-- Settles O23: BUF is empty, nothing is pending, and no flag is set that a clause asks about. -/
theorem invariantHoldsAtReset : Obligations.InvariantHoldsAtReset where
  bufCanonical := reset_buf_wf
  bufInRange := rfl
  sizeLegal := by decide
  busyIffPending := rfl
  busyFlags := Bool.noConfusion
  snapshotCurrent := fun _ hp => by cases hp
  noErrNoRecord := fun _ => ⟨rfl, rfl⟩
  errCodeLegal := Bool.noConfusion
  scratchZero := rfl

/-- Settles O21: SRST = 1 is a reset, which loses no more than the pending command draws, and SRST = 0
is a write of one flag. -/
theorem softResetAbandonsAndClears : Obligations.SoftResetAbandonsAndClears := by
  intro s v rest hin
  refine ⟨fun hv => ?_, fun hv => ?_⟩
  · obtain ⟨t, hstep, hvalues, hsize, n, hn, hpos, -⟩ := step_resets hin (.inr ⟨rfl, hv⟩)
    exact ⟨t, hstep, hvalues.g, hvalues.buf, hvalues.busy, hvalues.done, hvalues.err, hvalues.ovr,
      hvalues.errCode, hvalues.errInfo, hvalues.ie, hvalues.irq, hvalues.pending, hvalues.scratch,
      hsize, by omega, by omega⟩
  · have hwrite : step s = .next { s with inputs := rest, ie := v.getLsbD 0 } := by
      rw [step_hostWrite_ctrl hin, State.writeCtrl, hv]; rfl
    exact ⟨_, hwrite, rfl, State.archKept_busFields { s with ie := v.getLsbD 0 } rest s.readData
      s.freeCount⟩

/-- Settles O22: both events are one reset, whose loss is none unless an SSS.SPLIT runs and within that
command's draws if one does. -/
theorem bothResetsSetEveryStateToItsResetValue :
    Obligations.BothResetsSetEveryStateToItsResetValue := by
  intro s e v rest hin he
  obtain ⟨t, hstep, hvalues, hsize, n, hn, hpos, hinjected⟩ := step_resets hin he
  refine ⟨t, hstep, hvalues.g, hvalues.buf, hvalues.busy, hvalues.done, hvalues.err, hvalues.ovr,
    hvalues.errCode, hvalues.errInfo, hvalues.ie, hvalues.irq, hvalues.pending, hvalues.scratch,
    hsize, fun hno => ?_, fun p hp => ?_⟩
  · obtain rfl : n = 0 := by
      rw [State.pendingDraws_of_not_split hno] at hn
      exact Nat.le_zero.mp hn
    exact ⟨hpos, hinjected⟩
  · have hbound : n ≤ splitDraws (p.snapshot.regNat 2) (p.snapshot.regNat 3) :=
      hn.trans (State.pendingDraws_le hp)
    refine ⟨hpos ▸ Nat.le_add_right _ _, hpos ▸ Nat.add_le_add_left hbound _, ?_⟩
    rw [hpos, Nat.add_sub_cancel_left]
    exact hinjected

/-- Settles O15: the offset names CMD, a register or a word of BUF, whose write is dropped and whose
read touches the bus fields alone. -/
theorem busyDropsWritesAndFreesReads : Obligations.BusyDropsWritesAndFreesReads := by
  intro s off v rest hb ha hoff
  have hw : off < 0x1000 + s.bufSize := by omega
  refine ⟨fun hin => ?_, fun hin => ?_⟩
  · have hx : (targetOf off).Hazardous := targetOf_hazardous ha (by omega)
    have hdropped : step s = .next (State.setOvr { s with inputs := rest }) := by
      rw [step_hostWrite hin ha hw,
        State.writeTarget_dropped (s := { s with inputs := rest }) hb hx]
    exact ⟨_, hdropped, rfl, State.archKept_busFields { s with ovr := true } rest s.readData
      s.freeCount⟩
  · obtain ⟨w, n, hread⟩ := State.readTarget_cases { s with inputs := rest } (targetOf off)
    refine ⟨_, w, step_hostRead hin ha hw, s.archKept_readTarget rest _, by rw [hread], ?_⟩
    rintro rfl
    have hzero : some 0 = some w := congrArg State.readData hread
    exact (Option.some.inj hzero).symm

end Sys2Proof.Machine
